-- ==== Sys2Proof/Word.lean ====
section
/-! DEFINITION. Words of the S/PDIF transmitter control engine: the widths that spec/00_scope.md rule R7 and
spec/10_state.md rule R23 fix. Nothing in this hardware is signed (R8). -/

namespace Sys2Proof

/-- A device register's content, a mask, an address, a command word: 32 bits (R7, R28, R71). -/
abbrev Word := BitVec 32

/-- A channel-status half-word: 16 bits (R7, R34). -/
abbrev Half := BitVec 16

/-- A channel-status byte, a bit width, a channel count, a transport command code: 8 bits (R23, R73). -/
abbrev Byte := BitVec 8

/-- A rate in Hz: 64 bits, because the clock capability takes `setRate(hz: u64)` (R23, R68). -/
abbrev Rate := BitVec 64

end Sys2Proof
end

