-- ==== Sys2Proof/Config.lean ====
section
/-! DEFINITION. What is fixed for one instance of the engine, the names it uses, and the free values of its
surroundings: spec/00_scope.md rule R6 (parameters), spec/10_state.md rules R27 to R33 (registers, fields, clocks),
spec/20_memory.md rules R56, R57 (layout), R62, R63 (draws of the environment), spec/30_encoding.md rule R83. -/

namespace Sys2Proof

/-- The eight device registers, by this spec's labels (R28). They are eight pairwise distinct registers. -/
inductive Reg where
  | clkctrl | memctrl | holdctrl | fmtctrl
  | csL0 | csR0 | csL1 | csR1
  deriving DecidableEq, Repr, Inhabited

/-- The eight labels in the order of R28's table. -/
def Reg.all : List Reg := [.clkctrl, .memctrl, .holdctrl, .fmtctrl, .csL0, .csR0, .csL1, .csR1]

/-- The twelve fields of the four control registers (R30 to R33). -/
inductive Field where
  | divEn | divSel | divExtra
  | linear
  | holdEn
  | nonPcm | mode16 | align16 | mode32 | shift32 | ufs | flr
  deriving DecidableEq, Repr, Inhabited

/-- The twelve fields in the order of R30 to R33. -/
def Field.all : List Field :=
  [.divEn, .divSel, .divExtra, .linear, .holdEn, .nonPcm, .mode16, .align16, .mode32, .shift32, .ufs, .flr]

/-- The register a field belongs to (R28). -/
def Field.reg : Field → Reg
  | .divEn | .divSel | .divExtra => .clkctrl
  | .linear => .memctrl
  | .holdEn => .holdctrl
  | .nonPcm | .mode16 | .align16 | .mode32 | .shift32 | .ufs | .flr => .fmtctrl

/-- The four clock handles of the instance's ClockSet (R27). -/
inductive Clk where
  | fast | iface | masterSelect | master
  deriving DecidableEq, Repr, Inhabited

/-- `LAYOUT` (R6, R56): a 32-bit address for each register label and a mask for each field. The source gives no
number of it, so every claim is made for every well-formed layout (`Layout.wf`). -/
structure Layout where
  addrClkctrl : Word
  addrMemctrl : Word
  addrHoldctrl : Word
  addrFmtctrl : Word
  addrCsL0 : Word
  addrCsR0 : Word
  addrCsL1 : Word
  addrCsR1 : Word
  divEn : Word
  divSel : Word
  divExtra : Word
  linear : Word
  holdEn : Word
  nonPcm : Word
  mode16 : Word
  align16 : Word
  mode32 : Word
  shift32 : Word
  ufs : Word
  flr : Word
  deriving DecidableEq, Repr, Inhabited

/-- The address a layout gives to a register label (R56). -/
def Layout.addr (L : Layout) : Reg → Word
  | .clkctrl => L.addrClkctrl
  | .memctrl => L.addrMemctrl
  | .holdctrl => L.addrHoldctrl
  | .fmtctrl => L.addrFmtctrl
  | .csL0 => L.addrCsL0
  | .csR0 => L.addrCsR0
  | .csL1 => L.addrCsL1
  | .csR1 => L.addrCsR1

/-- The mask a layout gives to a field (R55, R56). -/
def Layout.mask (L : Layout) : Field → Word
  | .divEn => L.divEn
  | .divSel => L.divSel
  | .divExtra => L.divExtra
  | .linear => L.linear
  | .holdEn => L.holdEn
  | .nonPcm => L.nonPcm
  | .mode16 => L.mode16
  | .align16 => L.align16
  | .mode32 => L.mode32
  | .shift32 => L.shift32
  | .ufs => L.ufs
  | .flr => L.flr

/-- The register at a bus address, if a layout puts one there (R50, R59: a register is reached by its label, and
through the layout by its address; the bus reaches no other register). -/
def Layout.regAt (L : Layout) (a : Word) : Option Reg := Reg.all.find? fun r => L.addr r == a

/-- The reference layout of R57. PRESUMED by the spec itself ("from general knowledge, not in source"): it serves
`State.reset` and the test vectors, and no statement rests on it (log entry 2). -/
def Layout.reference : Layout where
  addrFmtctrl := 0x010
  addrCsL0 := 0x020
  addrCsL1 := 0x024
  addrHoldctrl := 0x028
  addrClkctrl := 0x058
  addrCsR0 := 0x0C0
  addrCsR1 := 0x0C4
  addrMemctrl := 0x1A4
  nonPcm := 0x00000001
  mode16 := 0x00000002
  align16 := 0x00000060
  mode32 := 0x00000080
  shift32 := 0x00000700
  ufs := 0x00001000
  flr := 0x00002000
  holdEn := 0x00000001
  divEn := 0x00000002
  divSel := 0x00000030
  divExtra := 0x00001000
  linear := 0x00000100

/-- The parameters of R6 that the engine's own steps read, and one of the model's own for a point on which two rules of
the spec disagree. They are not state (R36): no step writes them (log entry 1). -/
structure Params where
  layout : Layout
  /-- `CONSERVATIVE_CLEANUP` (R97); default false. -/
  conservativeCleanup : Bool
  /-- `FMT_MASK_INCLUDES_NONPCM` (R121); default true. -/
  fmtMaskIncludesNonPcm : Bool
  /-- The MODEL's own parameter, read only when `fmtMaskIncludesNonPcm` is false: true is the reading of R121, by which
  `NON_PCM` is then a foreign bit; false that of R63 and R12, by which no bit of the twelve fields is. Every claim is made
  for both (log entry 11). -/
  nonPcmForeign : Bool
  deriving DecidableEq, Repr, Inhabited

/-- The parameters at the values R6 names as default or reference; the model's own parameter, which is not read at
them, has the reading of R121 (log entry 11). -/
def Params.reference : Params where
  layout := Layout.reference
  conservativeCleanup := false
  fmtMaskIncludesNonPcm := true
  nonPcmForeign := true

/-- FREE VALUE: which error payloads there are beside the one that makes the type inhabited (R6). It has no body: the
payloads may be one, finitely many or infinitely many (log entry 6). -/
opaque Config.isErrPayload : Nat → Bool

/-- `ErrPayload` (R6, R171): the opaque error value of a failing clock operation, a type of which only
"inhabited" is known (R6; spec/91_not_in_source.md N27). `none` is its inhabitant, and what else it holds is a free
value. Nothing reads a payload but to compare it (log entry 6). -/
structure ErrPayload where
  token : Option { n : Nat // Config.isErrPayload n = true }
  deriving DecidableEq, Repr, Inhabited

/-- FREE VALUE: the payload that the texts of R80 name `e<n>` (log entry 6). -/
opaque Config.errNamed : Nat → ErrPayload

/-- The answer of the clock provider to a fallible clock call: `Ok` or `Err(e)` (R62). -/
inductive ClkResult where
  | ok
  | err (e : ErrPayload)
  deriving DecidableEq, Repr, Inhabited

/-- One change by the foreign agents between two transactions (R63): the bits they flip in each of the four
control registers. Only the flips at foreign bits take effect (`RegBlock.foreignFlip`). -/
structure ForeignFlip where
  clkctrl : Word
  memctrl : Word
  holdctrl : Word
  fmtctrl : Word
  deriving DecidableEq, Repr, Inhabited

/-- The foreign agents change nothing. -/
def ForeignFlip.quiet : ForeignFlip := ⟨0, 0, 0, 0⟩

/-- `ClockOracle` (R6, R62), FREE VALUE: the answer to the `n`-th clock call for which the state holds no pending
answer. It has no body: nothing can be proved of it (log entry 4). -/
opaque Config.freeClkAnswer : Nat → ClkResult

/-- FREE VALUE (R63): the foreign agents' `n`-th change for which the state holds no pending one (log entry 5). -/
opaque Config.freeForeignFlip : Nat → ForeignFlip

/-- StreamParams (R40, R70): what the host knows of a stream before CONFIGURE. -/
structure StreamParams where
  sampleRateHz : Rate
  bitWidth : Byte
  channelCount : Byte
  deriving DecidableEq, Repr, Inhabited

/-- A ChannelStatusWord, the 4-byte sequence `cs[0..3]` (R23, R110). -/
structure CsBytes where
  b0 : Byte
  b1 : Byte
  b2 : Byte
  b3 : Byte
  deriving DecidableEq, Repr, Inhabited

/-- `CS_ENCODER` (R6, R110), FREE VALUE: the external derivation of the channel-status bytes, which the host runs
before CONFIGURE. `none` is its failure. Nothing inside the engine calls it (log entry 7). -/
opaque Config.csEncoder : StreamParams → Option CsBytes

/-- FREE VALUE: what the host leaves on `PB_CS` when the external encoder has failed for a stream. R74 says only that the
value is ignored, so the spec leaves it open (log entry 25). -/
opaque Config.ignoredCsBytes : StreamParams → CsBytes

/-- The order of the bytes of a sample in the memory buffer (R58, R83). -/
inductive ByteOrder where
  | littleEndian | bigEndian
  deriving DecidableEq, Repr

/-- A declared sample format (R83). -/
structure SampleFormat where
  bits : Nat
  signed : Bool
  order : ByteOrder
  deriving DecidableEq, Repr

/-- The static capability descriptor of R83, which no command reads or changes. -/
structure Capabilities where
  channels : Nat
  sampleRatesHz : List Nat
  formats : List SampleFormat
  deriving DecidableEq, Repr

/-- "stereo only; sample rates {32000,44100,48000,96000,192000} Hz; sample formats {16-bit, 24-bit} signed
little-endian" (R83). -/
def Config.capabilities : Capabilities where
  channels := 2
  sampleRatesHz := [32000, 44100, 48000, 96000, 192000]
  formats := [⟨16, true, .littleEndian⟩, ⟨24, true, .littleEndian⟩]

end Sys2Proof
end

