-- ==== Sys2Proof/Syntax.lean ====
section
/-! DEFINITION. The abstract command syntax of spec/30_encoding.md rule R70, one constructor of `Instr` per row of
spec/opcode_table.json, and what the host puts on the command port (R71, R74). -/

namespace Sys2Proof

/-- The argument of TRIGGER (R70). -/
inductive TransportCommand where
  | start | resume | pauseRelease
  | stop | suspend | pausePush
  | other (code : Byte)
  deriving DecidableEq, Repr

/-- The classes of transport commands (R73, R137). -/
inductive TransportClass where
  | start | stop | rejected
  deriving DecidableEq, Repr

/-- The class of a transport command (R137). -/
def TransportCommand.cls : TransportCommand → TransportClass
  | .start | .resume | .pauseRelease => .start
  | .stop | .suspend | .pausePush => .stop
  | .other _ => .rejected

/-- A host command, one constructor per row of the opcode table. CONFIGURE carries the operands of its parameter
block (R74): `csOk = true` with `cs` is R70's `Ok(b0, b1, b2, b3)`; `csOk = false` is R70's `Err`, and `cs` is then
the ignored value of the port (log entry 9). The other operands are R70's. -/
inductive Instr where
  | startup
  | configure (rate : Rate) (width : Byte) (channels : Byte) (csOk : Bool) (cs : CsBytes)
  | triggerStop
  | triggerStart
  | triggerPausePush
  | triggerPauseRelease
  | triggerSuspend
  | triggerResume
  | triggerInvalid (code : Byte)
  | shutdown
  deriving DecidableEq, Repr

/-- TRIGGER with a transport command, as R70 writes it. -/
def Instr.trigger : TransportCommand → Instr
  | .stop => .triggerStop
  | .start => .triggerStart
  | .pausePush => .triggerPausePush
  | .pauseRelease => .triggerPauseRelease
  | .suspend => .triggerSuspend
  | .resume => .triggerResume
  | .other code => .triggerInvalid code

/-- The command that is executing, without its operands: the `op` of `Busy(op, k)` (R22). -/
inductive Op where
  | startup
  | configure
  | trigger (cmd : TransportCommand)
  | shutdown
  deriving DecidableEq, Repr

/-- The parameter block `PB` (R74): input ports presented beside a CONFIGURE command word. -/
structure ParamBlock where
  pbRate : Rate
  pbWidth : Byte
  pbChannels : Byte
  pbCsOk : Bool
  pbCs : Word
  deriving DecidableEq, Repr, Inhabited

/-- All ports at zero. -/
def ParamBlock.zero : ParamBlock := ⟨0, 0, 0, false, 0⟩

/-- One presentation on the command port (R75): the command word, and the parameter-block ports beside it, which
only CONFIGURE reads. -/
structure Presented where
  cw : Word
  pb : ParamBlock
  deriving DecidableEq, Repr, Inhabited

/-- R70's CONFIGURE for a stream and the outcome of its external encode, `none` being R70's `Err`. `Err` carries no
bytes and R74 ignores those on the port, yet R75 copies them into `P.cs`. DESIGN CHOICE (log entry 25): the bytes the host
presents then are a free value. -/
def Instr.configureWith (p : StreamParams) : Option CsBytes → Instr
  | some cs => .configure p.sampleRateHz p.bitWidth p.channelCount true cs
  | none => .configure p.sampleRateHz p.bitWidth p.channelCount false (Config.ignoredCsBytes p)

/-- The CONFIGURE a host issues for a stream (R110, R190): it runs the external encoder first and reports its
outcome; for a failed one see `Instr.configureWith` (log entry 25). -/
def Instr.configureFor (p : StreamParams) : Instr := .configureWith p (Config.csEncoder p)

end Sys2Proof
end

