-- ==== Sys2Proof/WellFormed.lean ====
section
/-! DEFINITION. Which commands the encoding can spell (spec/30_encoding.md rules R72, R73) and which layouts are
well formed (spec/20_memory.md rule R56, checks (a) to (f)). -/

namespace Sys2Proof

/-- The codes of R73 that name a transport command. -/
def namedTransportCodes : List Byte := [0x00, 0x01, 0x03, 0x04, 0x05, 0x06]

/-- A TRIGGER.INVALID carries a code that names none of the six transport commands (R144); every other command
is spelled by the encoding whatever its operands. -/
def Instr.wellFormed : Instr → Bool
  | .triggerInvalid code => !namedTransportCodes.contains code
  | .startup | .configure _ _ _ _ _ | .triggerStop | .triggerStart | .triggerPausePush | .triggerPauseRelease
  | .triggerSuspend | .triggerResume | .shutdown => true

/-- `len` consecutive one bits from bit `lo` up. -/
def runMask (lo len : Nat) : Word := BitVec.ofNat 32 ((2 ^ len - 1) * 2 ^ lo)

/-- The mask is a run of exactly `len` consecutive ones inside the 32 bits. -/
def isRunOf (len : Nat) (k : Word) : Bool := (List.range (33 - len)).any fun lo => k == runMask lo len

/-- The mask is a non-empty run of consecutive ones (R55). -/
def isRun (k : Word) : Bool := (List.range 32).any fun n => isRunOf (n + 1) k

/-- R56 (a): the eight addresses are pairwise distinct. -/
def Layout.addrsDistinct (L : Layout) : Bool := decide (Reg.all.map L.addr).Nodup

/-- R56 (b), which contains (e): every mask is a non-empty run of consecutive ones. -/
def Layout.masksAreRuns (L : Layout) : Bool := Field.all.all fun f => isRun (L.mask f)

/-- R56 (c): the nine one-bit fields have exactly one bit. -/
def Layout.oneBitFields (L : Layout) : Bool :=
  [Field.divEn, .divExtra, .linear, .holdEn, .nonPcm, .mode16, .mode32, .ufs, .flr].all fun f => isRunOf 1 (L.mask f)

/-- R56 (d): `ALIGN16` has exactly two bits. -/
def Layout.align16HasTwoBits (L : Layout) : Bool := isRunOf 2 L.align16

/-- R56 (f): the masks of the fields of one register are pairwise disjoint. -/
def Layout.masksDisjoint (L : Layout) : Bool :=
  Field.all.all fun f => Field.all.all fun g =>
    f == g || f.reg != g.reg || (L.mask f &&& L.mask g) == 0

/-- A well-formed layout (R56). -/
def Layout.wf (L : Layout) : Bool :=
  L.addrsDistinct && L.masksAreRuns && L.oneBitFields && L.align16HasTwoBits && L.masksDisjoint

end Sys2Proof
end

