-- ==== Sys2Proof/Decode.lean ====
section
/-! DEFINITION. Decoding and encoding of commands: spec/30_encoding.md rules R71 to R74, R77, R78. The decoder is
total on every command word and parameter block and rejects by name; the encoder is written from the same tables. -/

namespace Sys2Proof

/-- Why a command word spells no command (R78 (b)). -/
inductive DecodeError where
  /-- `RSV` is not zero. Safe: the command is refused as `IllegalOp` (R175). -/
  | reservedBits
  /-- `OPC` is 0 or 5 to 15. Safe: refused as `IllegalOp`. -/
  | reservedOpcode
  /-- `ARG` is not zero on a command other than TRIGGER. Safe: refused as `IllegalOp`. -/
  | argumentNotZero
  deriving DecidableEq, Repr

/-- `CW[31:28]` (R71). -/
def cwOpc (cw : Word) : BitVec 4 := cw.extractLsb' 28 4

/-- `CW[27:8]` (R71). -/
def cwRsv (cw : Word) : BitVec 20 := cw.extractLsb' 8 20

/-- `CW[7:0]` (R71). -/
def cwArg (cw : Word) : Byte := cw.extractLsb' 0 8

/-- A command word from its three fields (R71). -/
def mkCw (opc : BitVec 4) (rsv : BitVec 20) (arg : Byte) : Word := opc ++ rsv ++ arg

/-- The table of R73: the transport command that a code names. -/
def tcOfCode (code : Byte) : TransportCommand :=
  if code = 0x00 then .stop
  else if code = 0x01 then .start
  else if code = 0x03 then .pausePush
  else if code = 0x04 then .pauseRelease
  else if code = 0x05 then .suspend
  else if code = 0x06 then .resume
  else .other code

/-- The code of a transport command (R73). -/
def codeOfTc : TransportCommand → Byte
  | .stop => 0x00
  | .start => 0x01
  | .pausePush => 0x03
  | .pauseRelease => 0x04
  | .suspend => 0x05
  | .resume => 0x06
  | .other code => code

/-- `cs[k] = PB_CS[8k+7 : 8k]` (R74): `cs[0]` is the least significant byte of the port. -/
def csOfPort (v : Word) : CsBytes where
  b0 := v.extractLsb' 0 8
  b1 := v.extractLsb' 8 8
  b2 := v.extractLsb' 16 8
  b3 := v.extractLsb' 24 8

/-- The port value that carries four channel-status bytes (R74). -/
def portOfCs (cs : CsBytes) : Word := cs.b3 ++ cs.b2 ++ cs.b1 ++ cs.b0

/-- CONFIGURE with the operands of a parameter block (R74). -/
def configureOf (pb : ParamBlock) : Instr :=
  .configure pb.pbRate pb.pbWidth pb.pbChannels pb.pbCsOk (csOfPort pb.pbCs)

/-- Decoding a presentation (R77): the reserved bits are tested first, then the opcode selects the command. The
parameter block is read for CONFIGURE only. -/
def decode (cw : Word) (pb : ParamBlock) : Except DecodeError Instr :=
  if cwRsv cw ≠ 0 then .error .reservedBits
  else if cwOpc cw = 0x1 then
    if cwArg cw = 0 then .ok .startup else .error .argumentNotZero
  else if cwOpc cw = 0x2 then
    if cwArg cw = 0 then .ok (configureOf pb) else .error .argumentNotZero
  else if cwOpc cw = 0x3 then .ok (Instr.trigger (tcOfCode (cwArg cw)))
  else if cwOpc cw = 0x4 then
    if cwArg cw = 0 then .ok .shutdown else .error .argumentNotZero
  else .error .reservedOpcode

/-- The presentation that spells a command (R71 to R74); the ports are zero where the command reads none. -/
def encode : Instr → Presented
  | .startup => ⟨mkCw 0x1 0 0x00, .zero⟩
  | .configure rate width channels csOk cs => ⟨mkCw 0x2 0 0x00, ⟨rate, width, channels, csOk, portOfCs cs⟩⟩
  | .triggerStop => ⟨mkCw 0x3 0 (codeOfTc .stop), .zero⟩
  | .triggerStart => ⟨mkCw 0x3 0 (codeOfTc .start), .zero⟩
  | .triggerPausePush => ⟨mkCw 0x3 0 (codeOfTc .pausePush), .zero⟩
  | .triggerPauseRelease => ⟨mkCw 0x3 0 (codeOfTc .pauseRelease), .zero⟩
  | .triggerSuspend => ⟨mkCw 0x3 0 (codeOfTc .suspend), .zero⟩
  | .triggerResume => ⟨mkCw 0x3 0 (codeOfTc .resume), .zero⟩
  | .triggerInvalid code => ⟨mkCw 0x3 0 code, .zero⟩
  | .shutdown => ⟨mkCw 0x4 0 0x00, .zero⟩

/-- The presentation whose command word is the low `nbits` bits of `w`, with every port at zero (log entry 10). -/
def presentedOfTableWord (nbits w : Nat) : Presented := ⟨BitVec.ofNat 32 (w % 2 ^ nbits), .zero⟩

/-- What the decoder reads from a table word of `nbits` bits: every command word has 32 bits (R79), and the
parameter-block ports, which the table numbers no bits for, are zero. -/
def decodeTableWord (nbits w : Nat) : Option Instr :=
  if nbits ≤ 32 then
    match decode (presentedOfTableWord nbits w).cw (presentedOfTableWord nbits w).pb with
    | .ok i => some i
    | .error _ => none
  else none

end Sys2Proof
end

