-- ==== Sys2Proof/Machine/State.lean ====
section
/-! DEFINITION. The state of the engine, of the two devices it commands and of its surroundings' pending inputs, as
plain data: spec/10_state.md rules R21 to R34, and the reset of spec/70_reset_and_hazards.md rules R200 to R203. -/

namespace Sys2Proof.Machine

/-- The reasons the sticky mark `fault` can hold (R25, R177). No step of this model ends in `Outcome.fault`: the
spec says that the command goes on after the mark is set (R60), so the mark is part of the next state. -/
inductive Fault where
  /-- Set by `updateBits` and `write` on register `r` while `clk.en[fast]` is false (R60). Safe as long as a claim
  takes `fault = none` as a premise, which R60 asks of every claim; unsafe for a claim that does not. -/
  | unclockedRegAccess (r : Reg)
  deriving DecidableEq, Repr

/-- The reasons a step can end in a refusal. -/
inductive Refusal where
  /-- Raised by an arm of `exec` whose instruction has no meaning yet; safe. No arm of this model raises it: the
  refusals of R175 and R176 are effects on the state (`refused`), so they are next states. -/
  | notModelled (mnemonic : String)
  deriving DecidableEq, Repr

/-- The Playback Gate State (R21): `held` means data blocked, `flowing` data permitted. -/
inductive Gate where
  | held | flowing
  deriving DecidableEq, Repr, Inhabited

/-- The sequencer position (R22), the engine's analogue of a program counter: `busy op k` while command `op` is at
step `k` of its rule's pseudocode. -/
inductive Seq where
  | idle
  | busy (op : Op) (k : Nat)
  deriving DecidableEq, Repr

/-- The parameter latches `P` (R23). -/
structure Latches where
  rate : Rate
  width : Byte
  channels : Byte
  csOk : Bool
  cs : CsBytes
  deriving DecidableEq, Repr, Inhabited

/-- Which clock call failed (R171). -/
inductive ClkStage where
  | acquireFast | setParent | enableIface | enableMaster | setRate
  deriving DecidableEq, Repr, Inhabited

/-- The response latch (R24, R170). -/
inductive Resp where
  | ok
  | clockError (stage : ClkStage) (e : ErrPayload)
  | formatError
  | unsupportedFormatError
  | invalidCommandError
  /-- The refusal of a word that spells no command (R175); spec-added. -/
  | illegalOp
  deriving DecidableEq, Repr, Inhabited

/-- The clock provider's state for the instance's ClockSet (R27). -/
structure ClkState where
  enFast : Bool
  enIface : Bool
  enMaster : Bool
  /-- Written by nothing (R100). -/
  enMasterSelect : Bool
  parentMaster : Option Clk
  rateReqMaster : Option Rate
  deriving DecidableEq, Repr, Inhabited

/-- The register block (R28): eight 32-bit device registers. -/
structure RegBlock where
  clkctrl : Word
  memctrl : Word
  holdctrl : Word
  fmtctrl : Word
  csL0 : Word
  csR0 : Word
  csL1 : Word
  csR1 : Word
  deriving DecidableEq, Repr, Inhabited

/-- One transaction on an outgoing interface (R29). -/
inductive Transaction where
  | clkPrepareEnable (c : Clk) (res : ClkResult)
  | clkDisableUnprepare (c : Clk)
  | clkSetRate (c : Clk) (hz : Rate) (res : ClkResult)
  | clkSetParent (c p : Clk) (res : ClkResult)
  | regUpdateBits (r : Reg) (m v : Word)
  | regWrite (r : Reg) (v : Word)
  deriving DecidableEq, Repr

/-- The MODEL's own fields, not the spec's: the inputs of the other agents of R20 that are still to come, and the
counters of the free values that stand where an input list is empty (log entries 3, 4, 5). -/
structure Env where
  /-- The host's coming presentations on the command port, the next one first (R75, R190). -/
  commands : List Presented
  /-- The clock provider's coming answers to fallible calls (R62). -/
  clkAnswers : List ClkResult
  /-- How many free clock answers have been drawn. -/
  clkDrawn : Nat
  /-- The foreign agents' coming changes, one for each point where they may act (R63). -/
  foreignFlips : List ForeignFlip
  /-- How many free foreign changes have been drawn. -/
  foreignDrawn : Nat
  deriving DecidableEq, Repr, Inhabited

/-- The whole state. `params` is not state of the machine (R36): it holds the parameters of R6 so that every claim
is made for every value of them, and no step writes it (log entry 1). -/
structure State where
  params : Params
  gate : Gate
  seq : Seq
  latches : Latches
  resp : Resp
  fault : Option Fault
  refused : Bool
  clk : ClkState
  regs : RegBlock
  trace : List Transaction
  env : Env
  deriving DecidableEq, Repr

/-- Everything whose value after reset the spec leaves unspecified (R201 to R203): the latches, the device registers
(`REG0`), and the provider's variables for `masterSelect` and for the parent and rate of `master`. -/
structure Unspecified where
  latches : Latches
  reg0 : RegBlock
  enMasterSelect : Bool
  parentMaster : Option Clk
  rateReqMaster : Option Rate
  deriving DecidableEq, Repr, Inhabited

/-- DESIGN CHOICE (log entry 8): zero, false and none for everything the spec leaves unspecified. -/
def Unspecified.zero : Unspecified where
  latches := ⟨0, 0, 0, false, ⟨0, 0, 0, 0⟩⟩
  reg0 := ⟨0, 0, 0, 0, 0, 0, 0, 0⟩
  enMasterSelect := false
  parentMaster := none
  rateReqMaster := none

/-- No input of another agent is pending. -/
def Env.empty : Env := ⟨[], [], 0, [], 0⟩

/-- The state after reset (R200 to R203), for every value of what the spec leaves unspecified and of the
parameters. Claims about reset are made of this function. -/
def State.resetWith (p : Params) (u : Unspecified) : State where
  params := p
  gate := .held
  seq := .idle
  latches := u.latches
  resp := .ok
  fault := none
  refused := false
  clk :=
    { enFast := false, enIface := false, enMaster := false, enMasterSelect := u.enMasterSelect,
      parentMaster := u.parentMaster, rateReqMaster := u.rateReqMaster }
  regs := u.reg0
  trace := []
  env := Env.empty

/-- The state after reset at the reference parameters and the model's named values (log entries 2 and 8). -/
def State.reset : State := State.resetWith Params.reference Unspecified.zero

end Sys2Proof.Machine
end

