-- ==== Sys2Proof/Machine/Operands.lean ====
section
/-! DEFINITION. Every operand the engine forms: fields and their values (spec/20_memory.md rule R55), the masks of
the masked updates (spec/42_format.md rule R121, spec/44_lifecycle.md rule R156), the format value (R120), the
channel-status half-words (spec/41_channel_status.md rule R111), the master-clock target and its range
(spec/44_lifecycle.md rules R157, R159). -/

namespace Sys2Proof.Machine

/-- The lowest set bit of a mask; 32 when there is none. -/
def lowestSetBit (k : Word) : Nat := ((List.range 32).find? fun i => k.getLsbD i).getD 32

/-- `field_put(k, x) = (x << s) & k` with `s` the lowest set bit of `k` (R55). -/
def fieldPut (k x : Word) : Word := (x <<< lowestSetBit k) &&& k

/-- `field_get(k, w) = (w & k) >> s` (R55). -/
def fieldGet (k w : Word) : Word := (w &&& k) >>> lowestSetBit k

/-- `NON_PCM` is no foreign bit: FMT_CONFIG writes it, or the reading of R63 and R12 holds that no bit of the twelve
fields is one, against R121 (log entry 11). -/
def nonPcmOwned (p : Params) : Bool := p.fmtMaskIncludesNonPcm || !p.nonPcmForeign

/-- The bits of a register that no foreign agent changes: those of the twelve fields, `NON_PCM` among them unless it is
foreign by R121, and every bit of a channel-status register (R12, R63; log entry 11). -/
def ownMask (p : Params) : Reg → Word
  | .clkctrl => p.layout.divEn ||| p.layout.divSel ||| p.layout.divExtra
  | .memctrl => p.layout.linear
  | .holdctrl => p.layout.holdEn
  | .fmtctrl =>
    p.layout.mode16 ||| p.layout.align16 ||| p.layout.mode32 ||| p.layout.shift32 ||| p.layout.ufs ||| p.layout.flr |||
      (if nonPcmOwned p then p.layout.nonPcm else 0)
  | .csL0 | .csR0 | .csL1 | .csR1 => BitVec.allOnes 32

/-- `FMT_MASK` (R121). -/
def fmtMask (p : Params) : Word :=
  p.layout.mode16 ||| p.layout.align16 ||| p.layout.mode32 ||| p.layout.shift32 ||| p.layout.ufs ||| p.layout.flr |||
    (if p.fmtMaskIncludesNonPcm then p.layout.nonPcm else 0)

/-- The mask of the divider clear: `DIV_SEL | DIV_EXTRA` (R156). -/
def divClearMask (L : Layout) : Word := L.divSel ||| L.divExtra

/-- `fmt_val(width)` (R120); `none` is its row "anything else". -/
def fmtVal (L : Layout) (width : Byte) : Option Word :=
  if width = 16 then some (L.mode16 ||| fieldPut L.align16 2 ||| L.ufs ||| L.flr)
  else if width = 24 then some (L.mode32 ||| L.ufs ||| L.flr)
  else if width = 32 then some (L.mode32 ||| L.ufs ||| L.flr)
  else none

/-- `pack16(a, b)`: the high byte is `a`, the low byte `b` (R111). -/
def pack16 (a b : Byte) : Half := b.zeroExtend 16 ||| (a.zeroExtend 16 <<< 8)

/-- `w0 = pack16(cs[0], cs[1])` (R111). -/
def csWord0 (cs : CsBytes) : Half := pack16 cs.b0 cs.b1

/-- `w1 = pack16(cs[2], cs[3])` (R111). -/
def csWord1 (cs : CsBytes) : Half := pack16 cs.b2 cs.b3

/-- The four bytes recovered from the two half-words (R115). -/
def csUnpack (w0 w1 : Half) : CsBytes where
  b0 := w0.extractLsb' 8 8
  b1 := w0.extractLsb' 0 8
  b2 := w1.extractLsb' 8 8
  b3 := w1.extractLsb' 0 8

/-- `target = P.rate * 128` in unsigned 64-bit arithmetic (R157). -/
def masterTarget (rate : Rate) : Rate := rate * 128

/-- The rates CONFIGURE accepts: 1 to 2^57 - 1 (R159). -/
def rateInRange (rate : Rate) : Bool := 0 < rate.toNat && rate.toNat < 2 ^ 57

/-- `RegRead(r)` (R9). -/
def RegBlock.get (b : RegBlock) : Reg → Word
  | .clkctrl => b.clkctrl
  | .memctrl => b.memctrl
  | .holdctrl => b.holdctrl
  | .fmtctrl => b.fmtctrl
  | .csL0 => b.csL0
  | .csR0 => b.csR0
  | .csL1 => b.csL1
  | .csR1 => b.csR1

/-- `RegWrite(r, v)` (R9). -/
def RegBlock.set (b : RegBlock) (r : Reg) (v : Word) : RegBlock :=
  match r with
  | .clkctrl => { b with clkctrl := v }
  | .memctrl => { b with memctrl := v }
  | .holdctrl => { b with holdctrl := v }
  | .fmtctrl => { b with fmtctrl := v }
  | .csL0 => { b with csL0 := v }
  | .csR0 => { b with csR0 := v }
  | .csL1 => { b with csL1 := v }
  | .csR1 => { b with csR1 := v }

/-- The masked value of `updateBits`: `(old & ~m) | (v & m)` (R52). -/
def maskedValue (old m v : Word) : Word := (old &&& ~~~m) ||| (v &&& m)

/-- A register value after the foreign agents flipped the bits of `x` that the engine does not own (R63). -/
def foreignValue (own old x : Word) : Word := old ^^^ (x &&& ~~~own)

/-- One change by the foreign agents: foreign bits of the four control registers and nothing else (R63). -/
def RegBlock.foreignFlip (p : Params) (x : ForeignFlip) (b : RegBlock) : RegBlock :=
  { b with
    clkctrl := foreignValue (ownMask p .clkctrl) b.clkctrl x.clkctrl
    memctrl := foreignValue (ownMask p .memctrl) b.memctrl x.memctrl
    holdctrl := foreignValue (ownMask p .holdctrl) b.holdctrl x.holdctrl
    fmtctrl := foreignValue (ownMask p .fmtctrl) b.fmtctrl x.fmtctrl }

/-- `clk.en[c]` (R27). -/
def ClkState.en (k : ClkState) : Clk → Bool
  | .fast => k.enFast
  | .iface => k.enIface
  | .master => k.enMaster
  | .masterSelect => k.enMasterSelect

/-- `clk.en[c] <- b` (R27). -/
def ClkState.setEn (k : ClkState) (c : Clk) (b : Bool) : ClkState :=
  match c with
  | .fast => { k with enFast := b }
  | .iface => { k with enIface := b }
  | .master => { k with enMaster := b }
  | .masterSelect => { k with enMasterSelect := b }

end Sys2Proof.Machine
end

