-- ==== Sys2Proof/Machine/Flags.lean ====
section
/-! DEFINITION. The engine has no condition codes (spec/10_state.md rule R37). Its only status flag is `gate` (R21),
and what the host reads of a command is the response `RSP` (spec/30_encoding.md rule R76): the write of the flag, and
the numbers of the response's fields. -/

namespace Sys2Proof.Machine

/-- `gate <- g` (R21). -/
def setGate (g : Gate) (s : State) : State := { s with gate := g }

/-- `RSP_CODE` (R76). -/
def Resp.code : Resp → BitVec 4
  | .ok => 0
  | .clockError _ _ => 1
  | .formatError => 2
  | .unsupportedFormatError => 3
  | .invalidCommandError => 4
  | .illegalOp => 15

/-- The number of a stage (R76, R171). -/
def ClkStage.number : ClkStage → BitVec 4
  | .acquireFast => 1
  | .setParent => 2
  | .enableIface => 3
  | .enableMaster => 4
  | .setRate => 5

/-- `RSP_STAGE` (R76). -/
def Resp.stage : Resp → BitVec 4
  | .clockError stage _ => stage.number
  | .ok | .formatError | .unsupportedFormatError | .invalidCommandError | .illegalOp => 0

/-- `RSP_PAYLOAD` (R76): the provider's error value, unchanged; absent when the response is no `ClockError`. -/
def Resp.payload : Resp → Option ErrPayload
  | .clockError _ e => some e
  | .ok | .formatError | .unsupportedFormatError | .invalidCommandError | .illegalOp => none

/-- The stage a number names (R76). -/
def stageOfNumber (n : BitVec 4) : Option ClkStage :=
  if n = 1 then some .acquireFast
  else if n = 2 then some .setParent
  else if n = 3 then some .enableIface
  else if n = 4 then some .enableMaster
  else if n = 5 then some .setRate
  else none

/-- The host's reading of `RSP` (R76). Codes 5 to 14, stages 6 to 15 and a payload that does not fit the code are
never produced and are refused (spec/93_implementation_defined.md U11). -/
def respOfFields (code stage : BitVec 4) (payload : Option ErrPayload) : Option Resp :=
  match payload with
  | some e => if code = 1 then (stageOfNumber stage).map (Resp.clockError · e) else none
  | none =>
    if stage ≠ 0 then none
    else if code = 0 then some .ok
    else if code = 2 then some .formatError
    else if code = 3 then some .unsupportedFormatError
    else if code = 4 then some .invalidCommandError
    else if code = 15 then some .illegalOp
    else none

end Sys2Proof.Machine
end

