-- ==== Sys2Proof/Machine/Ops.lean ====
section
/-! DEFINITION. The shared operations: the draws of the environment (spec/20_memory.md rules R62, R63), the two
register transactions (R52, R53, R60), the four clock transactions (spec/40_clock_sequencer.md rules R90 to R93), and
what ends a command: completion, `raise` and refusal (spec/60_exceptions.md rules R175, R176, R178). -/

namespace Sys2Proof.Machine

/-- `emit t`: append a transaction to the trace (R9, R29). -/
def emit (t : Transaction) (s : State) : State := { s with trace := s.trace ++ [t] }

/-- The foreign agents' next change: the first pending one, or a free value (R63; log entry 5). -/
def drawForeign (s : State) : ForeignFlip × State :=
  match s.env.foreignFlips with
  | x :: xs => (x, { s with env := { s.env with foreignFlips := xs } })
  | [] =>
    (Config.freeForeignFlip s.env.foreignDrawn, { s with env := { s.env with foreignDrawn := s.env.foreignDrawn + 1 } })

/-- The foreign agents act: they may change foreign bits, and nothing else (R63). This happens before every
transaction of the engine and between commands, never inside a transaction. -/
def foreignActs (s : State) : State :=
  { (drawForeign s).2 with regs := (drawForeign s).2.regs.foreignFlip s.params (drawForeign s).1 }

/-- The clock provider's next answer to a fallible call: the first pending one, or a free value (R62; log entry 4). -/
def drawClk (s : State) : ClkResult × State :=
  match s.env.clkAnswers with
  | a :: rest => (a, { s with env := { s.env with clkAnswers := rest } })
  | [] => (Config.freeClkAnswer s.env.clkDrawn, { s with env := { s.env with clkDrawn := s.env.clkDrawn + 1 } })

/-- The mark of a register transaction while `fast` is off; the first one is kept (R60, R177). -/
def markUnclocked (r : Reg) (s : State) : State :=
  if s.clk.enFast then s
  else match s.fault with
    | some _ => s
    | none => { s with fault := some (.unclockedRegAccess r) }

/-- `updateBits(r, m, v)`: the masked read-modify-write, one indivisible transaction (R52). -/
def updateBits (r : Reg) (m v : Word) (s : State) : State :=
  let s := markUnclocked r (foreignActs s)
  emit (.regUpdateBits r m v) { s with regs := s.regs.set r (maskedValue (s.regs.get r) m v) }

/-- `write(r, v)`: the whole-register write (R53). -/
def write (r : Reg) (v : Word) (s : State) : State :=
  let s := markUnclocked r (foreignActs s)
  emit (.regWrite r v) { s with regs := s.regs.set r v }

/-- `prepareEnable(c)` (R90). -/
def prepareEnable (c : Clk) (s : State) : ClkResult × State :=
  match drawClk (foreignActs s) with
  | (.ok, s) => (.ok, emit (.clkPrepareEnable c .ok) { s with clk := s.clk.setEn c true })
  | (.err e, s) => (.err e, emit (.clkPrepareEnable c (.err e)) s)

/-- `disableUnprepare(c)`: it has no result and always takes effect (R91). -/
def disableUnprepare (c : Clk) (s : State) : State :=
  let s := foreignActs s
  emit (.clkDisableUnprepare c) { s with clk := s.clk.setEn c false }

/-- `setRate(master, hz)` (R92): the handle is always `master` (R68). -/
def setRate (hz : Rate) (s : State) : ClkResult × State :=
  match drawClk (foreignActs s) with
  | (.ok, s) => (.ok, emit (.clkSetRate .master hz .ok) { s with clk := { s.clk with rateReqMaster := some hz } })
  | (.err e, s) => (.err e, emit (.clkSetRate .master hz (.err e)) s)

/-- `setParent(master, masterSelect)` (R93): the only handles it is used with (R68). -/
def setParent (s : State) : ClkResult × State :=
  match drawClk (foreignActs s) with
  | (.ok, s) =>
    (.ok, emit (.clkSetParent .master .masterSelect .ok) { s with clk := { s.clk with parentMaster := some .masterSelect } })
  | (.err e, s) => (.err e, emit (.clkSetParent .master .masterSelect (.err e)) s)

/-- How a step of a command ends: the command goes on, or it raises an error result (R178). -/
inductive Flow where
  | goOn (s : State)
  | raised (s : State) (e : Resp)
  deriving DecidableEq, Repr

/-- `raise E`, the engine's exception entry (R178): no further step runs, `resp <- E`, `seq <- Idle`. Nothing is
saved and nothing is rolled back; there is no return instruction (R180): the host issues its next command. -/
def raise (e : Resp) (s : State) : State := { s with resp := e, seq := .idle }

/-- The end of a command that ran to its last step: `resp <- Ok`, `seq <- Idle` (R22, R75). -/
def complete (s : State) : State := { s with resp := .ok, seq := .idle }

/-- The refusal of a CONFIGURE whose rate is out of range (R176): `resp` keeps its value. -/
def refuseRate (s : State) : State := { s with refused := true, seq := .idle }

/-- The refusal of a command word that spells no command (R175). -/
def refuseIllegal (s : State) : State := { s with refused := true, resp := .illegalOp }

/-- `seq <- q` (R22). -/
def setSeq (q : Seq) (s : State) : State := { s with seq := q }

/-- The sequencer (R22): run the steps of command `op` in order, the first of them being step `k`; the first step
that raises ends the command (R178, R179), and after the last the command completes. -/
def runSteps (op : Op) : Nat → List (State → Flow) → State → State
  | _, [], s => complete s
  | k, f :: fs, s =>
    match f (setSeq (.busy op k) s) with
    | .goOn s => runSteps op (k + 1) fs s
    | .raised s e => raise e s

/-- Acceptance of a CONFIGURE: the parameter block is copied into the latches in one step (R75). -/
def latch (p : Latches) (s : State) : State := { s with latches := p }

end Sys2Proof.Machine
end

