-- ==== Sys2Proof/Machine/CommandPort.lean ====
section
/-! DEFINITION. The command port, where this machine gets its next instruction: it fetches nothing from any memory
(spec/20_memory.md rule R66); the host presents a command word, with the parameter block beside it, while the engine
is idle (spec/30_encoding.md rule R75, spec/60_exceptions.md rules R190, R191). -/

namespace Sys2Proof.Machine

/-- What the engine does next (R75). -/
inductive Action where
  /-- A command is under way: it goes on. The host presents nothing meanwhile (R191). -/
  | goOn (op : Op) (k : Nat)
  /-- Idle and nothing is presented: the engine waits (R204). -/
  | wait
  /-- Idle and a presentation is taken off the port: the command it spells. -/
  | run (i : Instr) (s : State)
  /-- Idle and a presentation is taken off the port that spells no command (R78). -/
  | illegal (s : State)
  deriving DecidableEq, Repr

/-- Take the presentation at the port and decode it (R75, R77). -/
def nextAction (s : State) : Action :=
  match s.seq with
  | .busy op k => .goOn op k
  | .idle =>
    match s.env.commands with
    | [] => .wait
    | c :: rest =>
      match decode c.cw c.pb with
      | .ok i => .run i { s with env := { s.env with commands := rest } }
      | .error _ => .illegal { s with env := { s.env with commands := rest } }

/-- The host presents `c` next, before whatever else it is to present, to an idle engine. -/
def present (c : Presented) (s : State) : State :=
  { s with seq := .idle, env := { s.env with commands := c :: s.env.commands } }

end Sys2Proof.Machine
end

