-- ==== Sys2Proof/Machine/ClockSequencer.lean ====
section
/-! DEFINITION. The Clock Sequencer: ACQUIRE, SELECT_AND_ENABLE, CLEANUP_FAST and RELEASE
(spec/40_clock_sequencer.md rules R95 to R98). -/

namespace Sys2Proof.Machine

/-- ACQUIRE (R95). -/
def acquire (s : State) : Flow :=
  match prepareEnable .fast s with
  | (.ok, s) => .goOn s
  | (.err e, s) => .raised s (.clockError .acquireFast e)

/-- CLEANUP_FAST (R97): nothing by default, `disableUnprepare(fast)` under `CONSERVATIVE_CLEANUP`. -/
def cleanupFast (s : State) : State :=
  if s.params.conservativeCleanup then disableUnprepare .fast s else s

/-- SELECT_AND_ENABLE (R96): the parent before the enables, `iface` before `master`; a failure undoes `iface` only,
and then does CLEANUP_FAST. -/
def selectAndEnable (s : State) : Flow :=
  match setParent s with
  | (.err e, s) => .raised (cleanupFast s) (.clockError .setParent e)
  | (.ok, s) =>
    match prepareEnable .iface s with
    | (.err e, s) => .raised (cleanupFast s) (.clockError .enableIface e)
    | (.ok, s) =>
      match prepareEnable .master s with
      | (.err e, s) => .raised (cleanupFast (disableUnprepare .iface s)) (.clockError .enableMaster e)
      | (.ok, s) => .goOn s

/-- RELEASE (R98): `iface`, `master`, `fast`, in that order and unconditionally. -/
def release (s : State) : State :=
  disableUnprepare .fast (disableUnprepare .master (disableUnprepare .iface s))

end Sys2Proof.Machine
end

