-- ==== Sys2Proof/Machine/Format.lean ====
section
/-! DEFINITION. The Channel Status Encoder and the Format Configurator: CS_WRITE (spec/41_channel_status.md rule
R112), the test of the external encode's outcome (R114), and FMT_CONFIG (spec/42_format.md rules R120 to R123). -/

namespace Sys2Proof.Machine

/-- CS_WRITE (R112): four whole-register writes, left word 0, right word 0, left word 1, right word 1. -/
def csWrite (s : State) : State :=
  let w0 := (csWord0 s.latches.cs).zeroExtend 32
  let w1 := (csWord1 s.latches.cs).zeroExtend 32
  write .csR1 w1 (write .csL1 w1 (write .csR0 w0 (write .csL0 w0 s)))

/-- Step 2 of CONFIGURE (R114, R155): the external encode failed. -/
def csCheck (s : State) : Flow :=
  if s.latches.csOk then .goOn s else .raised s .formatError

/-- FMT_CONFIG (R122): one masked update of `FMTCTRL`, or `UnsupportedFormatError` and no transaction (R123). -/
def fmtConfig (s : State) : Flow :=
  match fmtVal s.params.layout s.latches.width with
  | some v => .goOn (updateBits .fmtctrl (fmtMask s.params) v s)
  | none => .raised s .unsupportedFormatError

end Sys2Proof.Machine
end

