-- ==== Sys2Proof/Machine/Gate.lean ====
section
/-! DEFINITION. The Playback Gate State Machine and the seven TRIGGER commands (spec/43_gate.md rules R130 to R144). -/

namespace Sys2Proof.Machine

/-- DIV_ENABLE (R130). -/
def divEnable (s : State) : State := updateBits .clkctrl s.params.layout.divEn s.params.layout.divEn s

/-- DIV_DISABLE (R131). -/
def divDisable (s : State) : State := updateBits .clkctrl s.params.layout.divEn 0 s

/-- HOLD_SET (R132). -/
def holdSet (s : State) : State := updateBits .holdctrl s.params.layout.holdEn s.params.layout.holdEn s

/-- HOLD_CLEAR (R133). -/
def holdClear (s : State) : State := updateBits .holdctrl s.params.layout.holdEn 0 s

/-- GATE_START (R134): the divider is enabled before data is let through. -/
def gateStart (s : State) : State := setGate .flowing (holdClear (divEnable s))

/-- GATE_STOP (R135): data is blocked before its clock source is removed. -/
def gateStop (s : State) : State := setGate .held (divDisable (holdSet s))

/-- The steps of a TRIGGER before its `resp <- Ok` (R160): its dispatch on the class of the transport command. -/
def triggerSteps (cmd : TransportCommand) : List (State → Flow) :=
  match cmd.cls with
  | .start => [fun s => .goOn (gateStart s)]
  | .stop => [fun s => .goOn (gateStop s)]
  | .rejected => [fun s => .raised s .invalidCommandError]

/-- A TRIGGER from its step `k` on. -/
def triggerFrom (cmd : TransportCommand) (k : Nat) (s : State) : State :=
  runSteps (.trigger cmd) k ((triggerSteps cmd).drop (k - 1)) s

/-- TRIGGER.START (R138). -/
def execTriggerStart (s : State) : Host.Outcome State Fault Refusal := .next (triggerFrom .start 1 s)

/-- TRIGGER.RESUME (R139). -/
def execTriggerResume (s : State) : Host.Outcome State Fault Refusal := .next (triggerFrom .resume 1 s)

/-- TRIGGER.PAUSE_RELEASE (R140). -/
def execTriggerPauseRelease (s : State) : Host.Outcome State Fault Refusal := .next (triggerFrom .pauseRelease 1 s)

/-- TRIGGER.STOP (R141). -/
def execTriggerStop (s : State) : Host.Outcome State Fault Refusal := .next (triggerFrom .stop 1 s)

/-- TRIGGER.SUSPEND (R142). -/
def execTriggerSuspend (s : State) : Host.Outcome State Fault Refusal := .next (triggerFrom .suspend 1 s)

/-- TRIGGER.PAUSE_PUSH (R143). -/
def execTriggerPausePush (s : State) : Host.Outcome State Fault Refusal := .next (triggerFrom .pausePush 1 s)

/-- TRIGGER.INVALID (R144): `InvalidCommandError`, no transaction. -/
def execTriggerInvalid (code : Byte) (s : State) : Host.Outcome State Fault Refusal :=
  .next (triggerFrom (.other code) 1 s)

end Sys2Proof.Machine
end

