-- ==== Sys2Proof/Machine/Lifecycle.lean ====
section
/-! DEFINITION. The Instance Controller: LINEAR_SET, CFG_CLOCK and the commands STARTUP, CONFIGURE and SHUTDOWN
(spec/44_lifecycle.md rules R150 to R163). -/

namespace Sys2Proof.Machine

/-- LINEAR_SET (R152). -/
def linearSet (s : State) : State := updateBits .memctrl s.params.layout.linear s.params.layout.linear s

/-- Step 2 of STARTUP, the defensive hold (R153). -/
def defensiveHold (s : State) : State := setGate .held (holdSet s)

/-- The steps of STARTUP before its `resp <- Ok` (R150). -/
def startupSteps : List (State → Flow) :=
  [acquire, fun s => .goOn (defensiveHold s), selectAndEnable, fun s => .goOn (linearSet s)]

/-- STARTUP from its step `k` on. -/
def startupFrom (k : Nat) (s : State) : State := runSteps .startup k (startupSteps.drop (k - 1)) s

/-- STARTUP (R150). -/
def execStartup (s : State) : Host.Outcome State Fault Refusal := .next (startupFrom 1 s)

/-- CFG_CLOCK (R156): the divider bits are cleared before the rate is set. -/
def cfgClock (s : State) : Flow :=
  match setRate (masterTarget s.latches.rate) (updateBits .clkctrl (divClearMask s.params.layout) 0 s) with
  | (.ok, s) => .goOn s
  | (.err e, s) => .raised s (.clockError .setRate e)

/-- The steps 1 to 4 of CONFIGURE (R155). -/
def configureSteps : List (State → Flow) := [cfgClock, csCheck, fun s => .goOn (csWrite s), fmtConfig]

/-- CONFIGURE from its step `k` on, step 0 being the test of the rate (R155, R159). DESIGN CHOICE (log entry 24):
R75 enters the command at `Busy(op, 1)` and R155 numbers the test 0, so the test belongs to position 1 too. -/
def configureFrom (k : Nat) (s : State) : State :=
  if k ≤ 1 ∧ rateInRange s.latches.rate = false then refuseRate s
  else runSteps .configure (max k 1) (configureSteps.drop (k - 1)) s

/-- CONFIGURE (R155): its operands are latched when it is accepted, at `Busy(op, 1)` (R75). -/
def execConfigure (rate : Rate) (width channels : Byte) (csOk : Bool) (cs : CsBytes) (s : State) :
    Host.Outcome State Fault Refusal :=
  .next (configureFrom 1 (setSeq (.busy .configure 1) (latch ⟨rate, width, channels, csOk, cs⟩ s)))

/-- The step of SHUTDOWN before its `resp <- Ok` (R163). -/
def shutdownSteps : List (State → Flow) := [fun s => .goOn (release s)]

/-- SHUTDOWN from its step `k` on. -/
def shutdownFrom (k : Nat) (s : State) : State := runSteps .shutdown k (shutdownSteps.drop (k - 1)) s

/-- SHUTDOWN (R163). -/
def execShutdown (s : State) : Host.Outcome State Fault Refusal := .next (shutdownFrom 1 s)

/-- A command that is under way goes on from its step `k` (R22). Every step of this model runs a command to its end,
so a run meets `Busy` at no step's start (log entry 12). -/
def resumeCommand (op : Op) (k : Nat) (s : State) : State :=
  match op with
  | .startup => startupFrom k s
  | .configure => configureFrom k s
  | .trigger cmd => triggerFrom cmd k s
  | .shutdown => shutdownFrom k s

end Sys2Proof.Machine
end

