-- ==== Sys2Proof/Machine/Dispatch.lean ====
section
/-! DEFINITION. The meaning of every command, one arm per row of spec/opcode_table.json. -/

namespace Sys2Proof.Machine

def exec (i : Instr) (s : State) : Host.Outcome State Fault Refusal :=
  match i with
  | .startup => Sys2Proof.Machine.execStartup s
  | .configure rate width channels csOk cs => Sys2Proof.Machine.execConfigure rate width channels csOk cs s
  | .triggerStop => Sys2Proof.Machine.execTriggerStop s
  | .triggerStart => Sys2Proof.Machine.execTriggerStart s
  | .triggerPausePush => Sys2Proof.Machine.execTriggerPausePush s
  | .triggerPauseRelease => Sys2Proof.Machine.execTriggerPauseRelease s
  | .triggerSuspend => Sys2Proof.Machine.execTriggerSuspend s
  | .triggerResume => Sys2Proof.Machine.execTriggerResume s
  | .triggerInvalid code => Sys2Proof.Machine.execTriggerInvalid code s
  | .shutdown => Sys2Proof.Machine.execShutdown s

end Sys2Proof.Machine
end

