-- ==== Sys2Proof/Machine/Step.lean ====
section
/-! DEFINITION. One step of the machine: the foreign agents may act (spec/20_memory.md rule R63: "and between
commands"), then the engine runs the presented command to its end, or waits (spec/30_encoding.md rule R75). -/

namespace Sys2Proof.Machine

/-- One step: a whole command, a refusal of a word that spells none, or a wait. -/
def step (s : State) : Host.Outcome State Fault Refusal :=
  match nextAction (foreignActs s) with
  | .goOn op k => .next (resumeCommand op k (foreignActs s))
  | .wait => .next (foreignActs s)
  | .run i t => exec i t
  | .illegal t => .next (refuseIllegal t)

/-- The state in which the host presents the table word `w` next, with the parameter-block ports at zero
(log entry 10). -/
def State.withFetchWord (s : State) (nbits w : Nat) : State := present (presentedOfTableWord nbits w) s

end Sys2Proof.Machine
end

