-- ==== Sys2Proof/Machine/Text.lean ====
section
/-! DEFINITION. The textual form of commands, with the draws of the clock oracle written after `!`:
spec/30_encoding.md rules R80 and R81. One line is one command; `#` starts a comment. -/

namespace Sys2Proof.Machine

/-- The parts of a text between the separators. -/
def splitAt (sep : Char) : List Char → List (List Char)
  | [] => [[]]
  | c :: cs =>
    if c = sep then [] :: splitAt sep cs
    else match splitAt sep cs with
      | [] => [[c]]
      | part :: parts => (c :: part) :: parts

/-- The words of a line: its non-empty parts between spaces. -/
def wordsOf (line : List Char) : List (List Char) := (splitAt ' ' line).filter fun w => !w.isEmpty

/-- The value of a digit in a base up to sixteen; capital and small letters are the same digit. -/
def digitValue (base : Nat) (c : Char) : Option Nat :=
  let n := c.toNat
  let v :=
    if 48 ≤ n ∧ n ≤ 57 then some (n - 48)
    else if 97 ≤ n ∧ n ≤ 102 then some (n - 87)
    else if 65 ≤ n ∧ n ≤ 70 then some (n - 55)
    else none
  v.bind fun d => if d < base then some d else none

/-- Read digits onto a value read so far. -/
def readDigits (base : Nat) : Nat → List Char → Option Nat
  | acc, [] => some acc
  | acc, c :: cs => (digitValue base c).bind fun d => readDigits base (acc * base + d) cs

/-- A decimal number below `2 ^ width`. -/
def readDecimal (width : Nat) (cs : List Char) : Option (BitVec width) :=
  match cs with
  | [] => none
  | _ :: _ => (readDigits 10 0 cs).bind fun n => if n < 2 ^ width then some (BitVec.ofNat width n) else none

/-- `<hh>`: two hexadecimal digits. -/
def readHexByte (cs : List Char) : Option Byte :=
  if cs.length = 2 then (readDigits 16 0 cs).map (BitVec.ofNat 8) else none

/-- What stands behind a key such as `rate=`. -/
def behind : List Char → List Char → Option (List Char)
  | [], rest => some rest
  | _ :: _, [] => none
  | k :: ks, c :: cs => if k = c then behind ks cs else none

/-- The value of `cs=`, an outcome of the external encode: four bytes, or `none` for `ERR`, a failed one. -/
def readCs (v : List Char) : Option (Option CsBytes) :=
  if v = "ERR".toList then some none
  else match (splitAt ',' v).map readHexByte with
    | [some b0, some b1, some b2, some b3] => some (some ⟨b0, b1, b2, b3⟩)
    | _ => none

/-- The argument of TRIGGER: a name, or a decimal code read by the table of R73. -/
def readTransport (w : List Char) : Option TransportCommand :=
  if w = "START".toList then some .start
  else if w = "RESUME".toList then some .resume
  else if w = "PAUSE_RELEASE".toList then some .pauseRelease
  else if w = "STOP".toList then some .stop
  else if w = "SUSPEND".toList then some .suspend
  else if w = "PAUSE_PUSH".toList then some .pausePush
  else (readDecimal 8 w).map tcOfCode

/-- The command of a line's words. `HW_PARAMS` is another spelling of `CONFIGURE` (R81). The bytes behind `cs=ERR` are
those of `Instr.configureWith` (log entry 25). -/
def readCommand : List (List Char) → Option Instr
  | [w] =>
    if w = "STARTUP".toList then some .startup
    else if w = "SHUTDOWN".toList then some .shutdown
    else none
  | [w, arg] => if w = "TRIGGER".toList then (readTransport arg).map Instr.trigger else none
  | [w, rate, width, ch, cs] =>
    if w = "CONFIGURE".toList ∨ w = "HW_PARAMS".toList then
      (behind "rate=".toList rate).bind fun r => (readDecimal 64 r).bind fun r =>
      (behind "width=".toList width).bind fun b => (readDecimal 8 b).bind fun b =>
      (behind "ch=".toList ch).bind fun c => (readDecimal 8 c).bind fun c =>
      (behind "cs=".toList cs).bind fun v => (readCs v).map fun v => .configureWith ⟨r, b, c⟩ v
    else none
  | _ => none

/-- One draw of an annotation: `Ok`, or `Err(e<decimal>)` with the payload of that name. -/
def readDraw (w : List Char) : Option ClkResult :=
  if w = "Ok".toList then some .ok
  else (behind "Err(e".toList w).bind fun rest =>
    match rest.reverse with
    | ')' :: digits@(_ :: _) => (readDigits 10 0 digits.reverse).map fun n => .err (Config.errNamed n)
    | _ => none

/-- The draws of a list of words, all of them readable. -/
def readDraws : List (List Char) → Option (List ClkResult)
  | [] => some []
  | w :: ws => (readDraw w).bind fun d => (readDraws ws).map fun ds => d :: ds

/-- The annotation behind `!`: `clk=` and the draws in order of issue. -/
def readAnnotation : List (List Char) → Option (List ClkResult)
  | [w] => (behind "clk=".toList w).bind fun v => readDraws (splitAt ',' v)
  | _ => none

/-- One line: its command, and its draws of the clock oracle if it is annotated. -/
def readLine (line : String) : Option (Instr × Option (List ClkResult)) :=
  match (splitAt '#' line.toList).head?.map (splitAt '!') with
  | some [cmd] => (readCommand (wordsOf cmd)).map fun i => (i, none)
  | some [cmd, note] => (readCommand (wordsOf cmd)).bind fun i => (readAnnotation (wordsOf note)).map fun ds => (i, some ds)
  | _ => none

/-- The host presents the command of a line, and the clock provider answers it as the line says: with the annotated
draws, then `Ok` ("when omitted every draw is `Ok`"; a command makes at most four fallible calls). -/
def presentLine (line : String) (s : State) : Option State :=
  (readLine line).map fun l =>
    let s := present (encode l.1) s
    { s with env := { s.env with clkAnswers := (l.2.getD []) ++ List.replicate 4 .ok } }

end Sys2Proof.Machine
end

