-- ==== Sys2Proof/Safety.lean ====
section
/-! DEFINITION. What claims about the engine are made of: the premise R60 asks of every claim, the reading of a
field, the two parts of a register, the coming draws, the replay of a trace over the two devices, the transactions
R68 allows, the invariants of spec/10_state.md, and the order of commands that is the host's duty
(spec/70_reset_and_hazards.md rule R210). Nothing here is read by a step. -/

namespace Sys2Proof.Machine

/-- Neither of the two sticky marks is set (R25): "Every claim about the engine takes `fault = none` as a premise"
(R60), and the model says nothing of the hardware after a refusal (R176). -/
abbrev State.Clean (s : State) : Prop := s.fault = none ∧ s.refused = false

/-- The value of a field in its register: `field_get` of R55. -/
def State.field (s : State) (f : Field) : Word := fieldGet (s.params.layout.mask f) (s.regs.get f.reg)

/-- The bits of a register that belong to the engine: those that no foreign agent changes (R63; `ownMask`). -/
def State.own (s : State) (r : Reg) : Word := s.regs.get r &&& ownMask s.params r

/-- The foreign bits of a register (R12, R63). -/
def State.foreignBits (s : State) (r : Reg) : Word := s.regs.get r &&& ~~~(ownMask s.params r)

/-- The answer the clock provider gives to the `k`-th fallible call from now, counted from 0 (R62): a pending one, or
a free value. -/
def State.answer (s : State) (k : Nat) : ClkResult :=
  match s.env.clkAnswers.drop k with
  | a :: _ => a
  | [] => Config.freeClkAnswer (s.env.clkDrawn + (k - s.env.clkAnswers.length))

/-- The state after `n` turns of the foreign agents and nothing else. -/
def foreignTurns : Nat → State → State
  | 0, s => s
  | n + 1, s => foreignTurns n (foreignActs s)

/-- The register a transaction writes, if it is a register transaction. -/
def Transaction.target : Transaction → Option Reg
  | .regUpdateBits r _ _ | .regWrite r _ => some r
  | .clkPrepareEnable _ _ | .clkDisableUnprepare _ | .clkSetRate _ _ _ | .clkSetParent _ _ _ => none

/-- The effect of a transaction on the register block (R52, R53). -/
def Transaction.onRegs (t : Transaction) (b : RegBlock) : RegBlock :=
  match t with
  | .regUpdateBits r m v => b.set r (maskedValue (b.get r) m v)
  | .regWrite r v => b.set r v
  | .clkPrepareEnable _ _ | .clkDisableUnprepare _ | .clkSetRate _ _ _ | .clkSetParent _ _ _ => b

/-- The effect of a transaction on the clock provider (R90 to R93). -/
def Transaction.onClk (t : Transaction) (k : ClkState) : ClkState :=
  match t with
  | .clkPrepareEnable c .ok => k.setEn c true
  | .clkDisableUnprepare c => k.setEn c false
  | .clkSetRate _ hz .ok => { k with rateReqMaster := some hz }
  | .clkSetParent _ p .ok => { k with parentMaster := some p }
  | .clkPrepareEnable _ (.err _) | .clkSetRate _ _ (.err _) | .clkSetParent _ _ (.err _) => k
  | .regUpdateBits _ _ _ | .regWrite _ _ => k

/-- The register block after a list of transactions, with no foreign agent: the mock register interface of R29. -/
def replayRegs (ts : List Transaction) (b : RegBlock) : RegBlock := ts.foldl (fun b t => t.onRegs b) b

/-- The clock provider after a list of transactions. -/
def replayClk (ts : List Transaction) (k : ClkState) : ClkState := ts.foldl (fun k t => t.onClk k) k

/-- The combinations R68 allows on the clock interface, and on the register bus: masked updates of the control
registers inside the engine's own fields with a value inside the mask (R52), whole writes of the channel-status
registers with a zero high half (R51, R53). -/
def Transaction.allowed (p : Params) : Transaction → Prop
  | .clkPrepareEnable c _ => c = .fast ∨ c = .iface ∨ c = .master
  | .clkDisableUnprepare c => c = .iface ∨ c = .master ∨ c = .fast
  | .clkSetRate c _ _ => c = .master
  | .clkSetParent c q _ => c = .master ∧ q = .masterSelect
  | .regUpdateBits r m v =>
    (r = .clkctrl ∨ r = .memctrl ∨ r = .holdctrl ∨ r = .fmtctrl) ∧ m &&& ~~~(ownMask p r) = 0 ∧ v &&& ~~~m = 0
  | .regWrite r v => (r = .csL0 ∨ r = .csR0 ∨ r = .csL1 ∨ r = .csR1) ∧ v &&& 0xFFFF0000 = 0

/-- The engine has written register `r`. -/
def State.hasWritten (s : State) (r : Reg) : Prop := ∃ t ∈ s.trace, t.target = some r

/-- `gate` is the engine's own record of the last hold-bit value it wrote (R21). -/
def HoldRecorded (s : State) : Prop :=
  s.Clean → s.hasWritten .holdctrl → s.field .holdEn = (match s.gate with | .held => 1 | .flowing => 0)

/-- The FormatControlWord invariant (R35): once the engine has written `FMTCTRL`, exactly one of the two mode bits is
set, and both auxiliary flags are. -/
def FormatLegal (s : State) : Prop :=
  s.Clean → s.hasWritten .fmtctrl →
    ((s.field .mode16 = 1 ∧ s.field .mode32 = 0 ∧ s.field .align16 = 2) ∨ (s.field .mode16 = 0 ∧ s.field .mode32 = 1)) ∧
      s.field .ufs = 1 ∧ s.field .flr = 1

/-- The channel status is duplicated across the two banks (R34): once the engine has written a channel-status
register, each word's left and right registers agree and their high halves are zero (the latter by the spec's decisions
D16 and D30). -/
def BanksAgree (s : State) : Prop :=
  s.Clean → s.hasWritten .csL0 →
    s.regs.csL0 = s.regs.csR0 ∧ s.regs.csL1 = s.regs.csR1 ∧
      s.regs.csL0 &&& 0xFFFF0000 = 0 ∧ s.regs.csL1 &&& 0xFFFF0000 = 0

/-- The parent of `master` is `masterSelect` whenever `master` is enabled (R39). -/
def ParentBeforeEnable (s : State) : Prop := s.clk.enMaster = true → s.clk.parentMaster = some .masterSelect

/-- Data is permitted only while the divider is enabled: not (`HOLD_EN` = 0 and `DIV_EN` = 0) (R145). -/
def dataNeedsDivider (L : Layout) (b : RegBlock) : Prop :=
  ¬ (fieldGet L.holdEn b.holdctrl = 0 ∧ fieldGet L.divEn b.clkctrl = 0)

/-- Commands that reach the register bus whatever the state of the clocks: CONFIGURE with an accepted rate and the
six named TRIGGERs (R211). -/
def needsFast : Instr → Bool
  | .configure rate _ _ _ _ => rateInRange rate
  | .triggerStop | .triggerStart | .triggerPausePush | .triggerPauseRelease | .triggerSuspend | .triggerResume => true
  | .startup | .triggerInvalid _ | .shutdown => false

/-- From `s` to `t` the trace gained exactly the transactions `new`, in that order (R29). -/
def Gains (s t : State) (new : List Transaction) : Prop := t.trace = s.trace ++ new

/-- What CLEANUP_FAST adds to the trace (R97). -/
def cleanupTrace (p : Params) : List Transaction :=
  if p.conservativeCleanup then [.clkDisableUnprepare .fast] else []

/-- The engine changed no foreign bit: after as many transactions as the trace gained, the foreign bits of every
register are those that as many turns of the foreign agents alone would leave (R54, R63). -/
def KeepsForeignBits (s t : State) : Prop :=
  ∀ r, t.foreignBits r = (foreignTurns (t.trace.length - s.trace.length) s).foreignBits r

/-- The fallible clock call a transaction records, without its answer (R62). -/
def Transaction.call : Transaction → Option Transaction
  | .clkPrepareEnable c _ => some (.clkPrepareEnable c .ok)
  | .clkSetRate c hz _ => some (.clkSetRate c hz .ok)
  | .clkSetParent c p _ => some (.clkSetParent c p .ok)
  | .clkDisableUnprepare _ | .regUpdateBits _ _ _ | .regWrite _ _ => none

/-- The transaction records a fallible clock call that failed. -/
def Transaction.failed : Transaction → Bool
  | .clkPrepareEnable _ (.err _) | .clkSetRate _ _ (.err _) | .clkSetParent _ _ (.err _) => true
  | .clkPrepareEnable _ .ok | .clkSetRate _ _ .ok | .clkSetParent _ _ .ok => false
  | .clkDisableUnprepare _ | .regUpdateBits _ _ _ | .regWrite _ _ => false

/-- A channel-status register's value for two bytes, read off the picture of R34 and R58: the high half zero, then the
earlier byte, then the later one. -/
def csRegValue (a b : Byte) : Word := 0#16 ++ a ++ b

/-- Run a list of commands, stopping where one does not answer a next state. -/
def execAll : List Instr → State → Host.Outcome State Fault Refusal
  | [], s => .next s
  | i :: is, s =>
    match exec i s with
    | .next t => execAll is t
    | .fault f => .fault f
    | .refused r => .refused r

/-- The host's order of commands (R210, items 1 and 4): CONFIGURE and TRIGGER only after a STARTUP that answered `Ok`
and with no SHUTDOWN since. `started` says that this holds now. -/
def hostKeepsOrder : Bool → List Instr → State → Prop
  | _, [], _ => True
  | started, i :: is, s =>
    match i with
    | .startup => ∀ t, exec i s = .next t → hostKeepsOrder (t.resp == .ok) is t
    | .shutdown => ∀ t, exec i s = .next t → hostKeepsOrder false is t
    | .configure _ _ _ _ _ | .triggerStop | .triggerStart | .triggerPausePush | .triggerPauseRelease
    | .triggerSuspend | .triggerResume | .triggerInvalid _ =>
      started = true ∧ ∀ t, exec i s = .next t → hostKeepsOrder started is t

end Sys2Proof.Machine
end

