-- ==== Sys2Proof/Certificates/Slice0/Obligations.lean ====
section
/-! DEFINITION. The statements for the provers. Each docstring names the rules of spec/ it formalises; a clause that
rests on a decision of the spec (its `[decision: …]` marks) or on a choice of this model says so. The layout, the two
parameters, what reset leaves unspecified, the answers of the clock provider and the changes of the foreign agents are
universally quantified: they stand in the state. -/

open Sys2Proof Sys2Proof.Machine

/-! ### Commands and their encoding -/

/-- R71 to R74, R77: no bit of a command is dropped by the encoding. -/
def Obligations.EncodeThenDecodeGivesTheCommand : Prop :=
  ∀ i : Instr, i.wellFormed = true → decode (encode i).cw (encode i).pb = .ok i

/-- R71 to R74, R77: a presentation has one reading, and the ports are read for CONFIGURE only. That the encoder puts the
zero block beside every word but CONFIGURE's is the model's choice, not the spec's (log entry 10). -/
def Obligations.DecodeThenEncodeGivesThePresentation : Prop :=
  ∀ (cw : Word) (pb : ParamBlock) (i : Instr), decode cw pb = .ok i →
    i.wellFormed = true ∧ (encode i).cw = cw ∧ (encode i).pb = (if cw = 0x20000000 then pb else ParamBlock.zero)

/-- R72, R77, R78 (b): the words that spell a command, and no others. -/
def Obligations.AcceptedCommandWords : Prop :=
  ∀ (cw : Word) (pb : ParamBlock), (∃ i, decode cw pb = .ok i) ↔
    (cw = 0x10000000 ∨ cw = 0x20000000 ∨ cw &&& 0xFFFFFF00 = 0x30000000 ∨ cw = 0x40000000)

/-- R73, R78 (a): the table of transport command codes; every other code is an invalid TRIGGER, not an illegal word. -/
def Obligations.TransportCodesDecodeByTheTable : Prop :=
  ∀ (code : Byte) (pb : ParamBlock), decode (0x30000000 ||| code.zeroExtend 32) pb = .ok (
    match code.toNat with
    | 0 => .triggerStop
    | 1 => .triggerStart
    | 3 => .triggerPausePush
    | 4 => .triggerPauseRelease
    | 5 => .triggerSuspend
    | 6 => .triggerResume
    | _ => .triggerInvalid code)

/-- R71 to R74: command words written out bit by bit from the field table, each with the command it stands for. -/
def Obligations.WrittenOutWordsDecode : Prop :=
  decode 0b00010000000000000000000000000000#32 .zero = .ok .startup ∧
  decode 0b00100000000000000000000000000000#32 ⟨48000, 16, 2, true, 0x02008204⟩
    = .ok (.configure 48000 16 2 true ⟨0x04, 0x82, 0x00, 0x02⟩) ∧
  decode 0b00110000000000000000000000000001#32 .zero = .ok .triggerStart ∧
  decode 0b00110000000000000000000000000101#32 .zero = .ok .triggerSuspend ∧
  decode 0b00110000000000000000000000000111#32 .zero = .ok (.triggerInvalid 7) ∧
  decode 0b01000000000000000000000000000000#32 .zero = .ok .shutdown ∧
  decode 0b00110000000000000000000100000000#32 .zero = .error .reservedBits

/-- R76: the response fields determine the response, and only produced field values are read. -/
def Obligations.ResponseFieldsReadBack : Prop :=
  (∀ r : Resp, respOfFields r.code r.stage r.payload = some r) ∧
  ∀ (code stage : BitVec 4) (payload : Option ErrPayload) (r : Resp), respOfFields code stage payload = some r →
    code = r.code ∧ stage = r.stage ∧ payload = r.payload

/-! ### The step -/

/-- R75, R63: an idle engine with a presentation at the port runs the command it spells, after the foreign agents'
turn between commands, with that presentation taken off the port; `withFetchWord` puts one there. -/
def Obligations.StepRunsTheDecodedCommand : Prop :=
  (∀ (s : State) (c : Presented) (rest : List Presented) (i : Instr),
    s.seq = .idle → s.env.commands = c :: rest → decode c.cw c.pb = .ok i →
      step s = exec i { foreignActs s with env := { (foreignActs s).env with commands := rest } }) ∧
  ∀ (s : State) (nbits w : Nat) (i : Instr), decodeTableWord nbits w = some i →
    step (s.withFetchWord nbits w) = exec i (foreignActs { s with seq := .idle })

/-- R175, R204, R22: a word that spells no command sets `refused` and `resp` and changes nothing else of the engine;
with nothing presented the engine waits; a command under way goes on. (Waiting and going on are log entries 3, 12.) -/
def Obligations.StepWithoutACommand : Prop :=
  (∀ (s : State) (c : Presented) (rest : List Presented) (e : DecodeError),
    s.seq = .idle → s.env.commands = c :: rest → decode c.cw c.pb = .error e →
      step s = .next { foreignActs s with
        refused := true, resp := .illegalOp, env := { (foreignActs s).env with commands := rest } }) ∧
  (∀ s : State, s.seq = .idle → s.env.commands = [] → step s = .next (foreignActs s)) ∧
  ∀ (s : State) (op : Op) (k : Nat), s.seq = .busy op k → step s = .next (resumeCommand op k (foreignActs s))

/-- R22, R75, R166, R222: every step completes, in every state, and leaves the engine idle. -/
def Obligations.EveryStepCompletesAndIdles : Prop :=
  ∀ s : State, ∃ t, step s = .next t ∧ t.seq = .idle

/-! ### Reset -/

/-- R201, R203, whatever the parameters and whatever the spec leaves unspecified. -/
def Obligations.ResetLeavesTheStatedValues : Prop :=
  ∀ (p : Params) (u : Unspecified),
    (State.resetWith p u).gate = .held ∧ (State.resetWith p u).seq = .idle ∧ (State.resetWith p u).resp = .ok ∧
    (State.resetWith p u).fault = none ∧ (State.resetWith p u).refused = false ∧ (State.resetWith p u).trace = [] ∧
    (State.resetWith p u).clk.en .fast = false ∧ (State.resetWith p u).clk.en .iface = false ∧
    (State.resetWith p u).clk.en .master = false ∧ (∀ r, (State.resetWith p u).regs.get r = u.reg0.get r) ∧
    ∃ p' u', State.reset = State.resetWith p' u'

/-- The invariants below hold at reset, whatever the parameters and whatever the spec leaves unspecified. -/
def Obligations.ResetMeetsTheInvariants : Prop :=
  ∀ (p : Params) (u : Unspecified),
    HoldRecorded (State.resetWith p u) ∧ FormatLegal (State.resetWith p u) ∧ BanksAgree (State.resetWith p u) ∧
    ParentBeforeEnable (State.resetWith p u)

/-! ### Fields, the layout and the register transactions -/

/-- R55, for every run of consecutive ones and every value that fits it. -/
def Obligations.FieldPutThenGet : Prop :=
  ∀ (lo len : Nat) (x w : Word), 0 < len → lo + len ≤ 32 → x.toNat < 2 ^ len →
    fieldGet (runMask lo len) (fieldPut (runMask lo len) x) = x ∧
    fieldPut (runMask lo len) x &&& ~~~(runMask lo len) = 0 ∧
    (fieldGet (runMask lo len) w).toNat < 2 ^ len

/-- R56 (a), R59: through a well-formed layout a register's address reaches that register and no other. -/
def Obligations.AddressesTellRegistersApart : Prop :=
  ∀ L : Layout, L.wf = true → ∀ (r : Reg) (a : Word), L.regAt a = some r ↔ L.addr r = a

/-- R57: the reference layout is well formed; its combined masks and a clash of addresses are as the spec says. -/
def Obligations.ReferenceLayoutIsWellFormed : Prop :=
  Layout.reference.wf = true ∧ fmtMask Params.reference = 0x000037E3 ∧ divClearMask Layout.reference = 0x00001030 ∧
  Layout.reference.regAt 0x058 = some .clkctrl ∧ Layout.reference.regAt 0x05C = none

/-- R52: a masked update replaces the bits under the mask and no others, in its register and no other, and is recorded;
the state it finds is that after the foreign agents' turn (R63). -/
def Obligations.UpdateBitsIsTheMaskedUpdate : Prop :=
  ∀ (s : State) (r : Reg) (m v : Word), s.clk.enFast = true →
    ((updateBits r m v s).regs.get r &&& m = v &&& m) ∧
    ((updateBits r m v s).regs.get r &&& ~~~m = (foreignActs s).regs.get r &&& ~~~m) ∧
    (∀ r', r' ≠ r → (updateBits r m v s).regs.get r' = (foreignActs s).regs.get r') ∧
    updateBits r m v s = { foreignActs s with
      regs := (updateBits r m v s).regs, trace := s.trace ++ [.regUpdateBits r m v] }

/-- R53: a whole write replaces all 32 bits of its register and no other register, and is recorded. -/
def Obligations.WriteReplacesTheWholeRegister : Prop :=
  ∀ (s : State) (r : Reg) (v : Word), s.clk.enFast = true →
    (write r v s).regs.get r = v ∧
    (∀ r', r' ≠ r → (write r v s).regs.get r' = (foreignActs s).regs.get r') ∧
    write r v s = { foreignActs s with regs := (write r v s).regs, trace := s.trace ++ [.regWrite r v] }

/-- R54: a register transaction issued twice in a row leaves the engine's bits as issuing it once does, and the second
issue is recorded too. -/
def Obligations.RegisterTransactionsAreIdempotent : Prop :=
  ∀ (s : State) (r r' : Reg) (m v : Word),
    (updateBits r m v (updateBits r m v s)).own r' = (updateBits r m v s).own r' ∧
    (write r v (write r v s)).own r' = (write r v s).own r' ∧
    (updateBits r m v (updateBits r m v s)).fault = (updateBits r m v s).fault ∧
    (write r v (write r v s)).fault = (write r v s).fault ∧
    (updateBits r m v (updateBits r m v s)).trace.length = s.trace.length + 2 ∧
    (write r v (write r v s)).trace.length = s.trace.length + 2

/-- R63: a turn of the foreign agents changes no field of the engine, no channel-status register, no clock, nothing
else of the engine and nothing of the host's or the provider's coming inputs; and any change of the foreign bits of a
control register is one that a turn can make. The foreign bits are those of none of the twelve fields (R12), and, when
`FMT_MASK_INCLUDES_NONPCM` is false, `NON_PCM` by R121 and not by R63; the statement is for both readings
(log entry 11). -/
def Obligations.ForeignAgentsChangeForeignBitsOnly : Prop :=
  (∀ (s : State) (r : Reg), (foreignActs s).own r = s.own r) ∧
  (∀ s : State, foreignActs s = { s with
      regs := (foreignActs s).regs,
      env := { s.env with
        foreignFlips := (foreignActs s).env.foreignFlips, foreignDrawn := (foreignActs s).env.foreignDrawn } } ∧
    (foreignActs s).regs.csL0 = s.regs.csL0 ∧ (foreignActs s).regs.csR0 = s.regs.csR0 ∧
    (foreignActs s).regs.csL1 = s.regs.csL1 ∧ (foreignActs s).regs.csR1 = s.regs.csR1) ∧
  ∀ (s : State) (want : RegBlock), ∃ x : ForeignFlip,
    ∀ r, r = .clkctrl ∨ r = .memctrl ∨ r = .holdctrl ∨ r = .fmtctrl →
      (foreignActs { s with env := { s.env with foreignFlips := [x] } }).foreignBits r =
        want.get r &&& ~~~(ownMask s.params r)

/-! ### STARTUP -/

/-- R150, R95, R96, R152, R153: a STARTUP whose four clock calls succeed. The rendering of the hold and linear writes
as one-bit masked updates is the spec's decision D15. -/
def Obligations.StartupBringsTheEngineUp : Prop :=
  ∀ s : State, s.params.layout.wf = true →
    s.answer 0 = .ok → s.answer 1 = .ok → s.answer 2 = .ok → s.answer 3 = .ok →
    ∃ t, exec .startup s = .next t ∧
      t.clk = { s.clk with enFast := true, enIface := true, enMaster := true, parentMaster := some .masterSelect } ∧
      t.field .holdEn = 1 ∧ t.field .linear = 1 ∧ t.gate = .held ∧ t.resp = .ok ∧ t.seq = .idle ∧
      t.fault = s.fault ∧
      Gains s t [.clkPrepareEnable .fast .ok,
         .regUpdateBits .holdctrl s.params.layout.holdEn s.params.layout.holdEn,
         .clkSetParent .master .masterSelect .ok,
         .clkPrepareEnable .iface .ok,
         .clkPrepareEnable .master .ok,
         .regUpdateBits .memctrl s.params.layout.linear s.params.layout.linear]

/-- R151, R96, R97, R166: the four rows of the failure table, from every state and for both values of
`CONSERVATIVE_CLEANUP`. (The table is the spec's derivation from R150 and R95 to R97.) -/
def Obligations.StartupFailureTable : Prop :=
  ∀ (s : State) (e : ErrPayload), s.params.layout.wf = true →
    (s.answer 0 = .err e →
      ∃ t, exec .startup s = .next t ∧ t.resp = .clockError .acquireFast e ∧ t.clk = s.clk ∧ t.gate = s.gate ∧
        (∀ r, t.own r = s.own r) ∧ t.fault = s.fault ∧ Gains s t [.clkPrepareEnable .fast (.err e)]) ∧
    (s.answer 0 = .ok → s.answer 1 = .err e →
      ∃ t, exec .startup s = .next t ∧ t.resp = .clockError .setParent e ∧
        t.clk = { s.clk with enFast := !s.params.conservativeCleanup } ∧
        t.gate = .held ∧ t.field .holdEn = 1 ∧ t.own .memctrl = s.own .memctrl ∧ t.fault = s.fault ∧
        Gains s t (.clkPrepareEnable .fast .ok ::
          .regUpdateBits .holdctrl s.params.layout.holdEn s.params.layout.holdEn ::
          .clkSetParent .master .masterSelect (.err e) ::
          cleanupTrace s.params)) ∧
    (s.answer 0 = .ok → s.answer 1 = .ok → s.answer 2 = .err e →
      ∃ t, exec .startup s = .next t ∧ t.resp = .clockError .enableIface e ∧
        t.clk = { s.clk with enFast := !s.params.conservativeCleanup, parentMaster := some .masterSelect } ∧
        t.gate = .held ∧ t.field .holdEn = 1 ∧ t.own .memctrl = s.own .memctrl ∧ t.fault = s.fault ∧
        Gains s t (.clkPrepareEnable .fast .ok ::
          .regUpdateBits .holdctrl s.params.layout.holdEn s.params.layout.holdEn ::
          .clkSetParent .master .masterSelect .ok ::
          .clkPrepareEnable .iface (.err e) ::
          cleanupTrace s.params)) ∧
    (s.answer 0 = .ok → s.answer 1 = .ok → s.answer 2 = .ok → s.answer 3 = .err e →
      ∃ t, exec .startup s = .next t ∧ t.resp = .clockError .enableMaster e ∧
        t.clk = { s.clk with
          enFast := !s.params.conservativeCleanup, enIface := false, parentMaster := some .masterSelect } ∧
        t.gate = .held ∧ t.field .holdEn = 1 ∧ t.own .memctrl = s.own .memctrl ∧ t.fault = s.fault ∧
        Gains s t (.clkPrepareEnable .fast .ok ::
          .regUpdateBits .holdctrl s.params.layout.holdEn s.params.layout.holdEn ::
          .clkSetParent .master .masterSelect .ok ::
          .clkPrepareEnable .iface .ok ::
          .clkPrepareEnable .master (.err e) ::
          .clkDisableUnprepare .iface ::
          cleanupTrace s.params))

/-- R150 (a), (b): what a STARTUP leaves unchanged, however it ends. -/
def Obligations.StartupFrame : Prop :=
  ∀ s t : State, exec .startup s = .next t →
    t.params = s.params ∧ t.latches = s.latches ∧ t.refused = s.refused ∧ t.fault = s.fault ∧
    t.clk.enMasterSelect = s.clk.enMasterSelect ∧ t.clk.rateReqMaster = s.clk.rateReqMaster ∧
    (∀ r, r ≠ .holdctrl → r ≠ .memctrl → t.own r = s.own r) ∧
    KeepsForeignBits s t ∧ t.env.commands = s.env.commands

/-! ### CONFIGURE -/

/-- R155, R156, R157, R112, R120, R122: a CONFIGURE in which no stage fails. The divider-clear mask is the spec's
decision D14, the recorded rate its D9, the order of the four channel-status writes its D16, their zero high halves its
D30, the format mask and the zeros under it its D17. `FMTCTRL` keeps the engine's bits outside the mask: `NON_PCM` where it is
neither in the mask nor foreign (log entry 11). -/
def Obligations.ConfigureProgramsTheStream : Prop :=
  ∀ (s : State) (rate : Rate) (width channels : Byte) (cs : CsBytes) (v : Word),
    s.params.layout.wf = true → s.clk.enFast = true → s.answer 0 = .ok →
    0 < rate.toNat → rate.toNat < 2 ^ 57 →
    (width = 16 ∧ v = s.params.layout.mode16 ||| fieldPut s.params.layout.align16 2 ||| s.params.layout.ufs |||
        s.params.layout.flr ∨
      (width = 24 ∨ width = 32) ∧ v = s.params.layout.mode32 ||| s.params.layout.ufs ||| s.params.layout.flr) →
    ∃ t, exec (.configure rate width channels true cs) s = .next t ∧
      t.field .divSel = 0 ∧ t.field .divExtra = 0 ∧ t.clk = { s.clk with rateReqMaster := some (rate * 128) } ∧
      t.regs.csL0 = csRegValue cs.b0 cs.b1 ∧ t.regs.csR0 = csRegValue cs.b0 cs.b1 ∧
      t.regs.csL1 = csRegValue cs.b2 cs.b3 ∧ t.regs.csR1 = csRegValue cs.b2 cs.b3 ∧
      t.own .fmtctrl &&& fmtMask s.params = v ∧
      t.own .fmtctrl &&& ~~~(fmtMask s.params) = s.own .fmtctrl &&& ~~~(fmtMask s.params) ∧ t.resp = .ok ∧ t.seq = .idle ∧ t.fault = s.fault ∧ t.refused = s.refused ∧
      Gains s t [.regUpdateBits .clkctrl (s.params.layout.divSel ||| s.params.layout.divExtra) 0,
         .clkSetRate .master (rate * 128) .ok,
         .regWrite .csL0 (csRegValue cs.b0 cs.b1), .regWrite .csR0 (csRegValue cs.b0 cs.b1),
         .regWrite .csL1 (csRegValue cs.b2 cs.b3), .regWrite .csR1 (csRegValue cs.b2 cs.b3),
         .regUpdateBits .fmtctrl (fmtMask s.params) v]

/-- R158: the failure table of CONFIGURE, with the earlier stage's failure reported whatever the later stages would
find, and the effects of completed stages kept. The refusal of a rate is the spec's decision D20, the divider-clear mask
its D14, the recorded rate its D9, the order of the four channel-status writes its D16, their zero high halves its D30,
the place of the encode test its D29. -/
def Obligations.ConfigureFailureTable : Prop :=
  ∀ (s : State) (rate : Rate) (width channels : Byte) (csOk : Bool) (cs : CsBytes) (e : ErrPayload),
    s.params.layout.wf = true →
    ((rate.toNat = 0 ∨ 2 ^ 57 ≤ rate.toNat) →
      ∃ t, exec (.configure rate width channels csOk cs) s = .next t ∧ t.refused = true ∧ t.resp = s.resp ∧
        t.trace = s.trace ∧ t.regs = s.regs ∧ t.clk = s.clk ∧ t.gate = s.gate ∧ t.fault = s.fault ∧ t.seq = .idle) ∧
    (0 < rate.toNat → rate.toNat < 2 ^ 57 → s.clk.enFast = true → s.answer 0 = .err e →
      ∃ t, exec (.configure rate width channels csOk cs) s = .next t ∧ t.resp = .clockError .setRate e ∧
        t.field .divSel = 0 ∧ t.field .divExtra = 0 ∧ t.clk = s.clk ∧
        (∀ r, r ≠ .clkctrl → t.own r = s.own r) ∧
        Gains s t [.regUpdateBits .clkctrl (s.params.layout.divSel ||| s.params.layout.divExtra) 0,
          .clkSetRate .master (rate * 128) (.err e)] ∧ t.seq = .idle) ∧
    (0 < rate.toNat → rate.toNat < 2 ^ 57 → s.clk.enFast = true → s.answer 0 = .ok → csOk = false →
      ∃ t, exec (.configure rate width channels csOk cs) s = .next t ∧ t.resp = .formatError ∧
        t.field .divSel = 0 ∧ t.field .divExtra = 0 ∧ t.clk = { s.clk with rateReqMaster := some (rate * 128) } ∧
        (∀ r, r ≠ .clkctrl → t.own r = s.own r) ∧
        Gains s t [.regUpdateBits .clkctrl (s.params.layout.divSel ||| s.params.layout.divExtra) 0,
          .clkSetRate .master (rate * 128) .ok] ∧ t.seq = .idle) ∧
    (0 < rate.toNat → rate.toNat < 2 ^ 57 → s.clk.enFast = true → s.answer 0 = .ok → csOk = true →
      width ≠ 16 → width ≠ 24 → width ≠ 32 →
      ∃ t, exec (.configure rate width channels csOk cs) s = .next t ∧ t.resp = .unsupportedFormatError ∧
        t.field .divSel = 0 ∧ t.field .divExtra = 0 ∧ t.clk = { s.clk with rateReqMaster := some (rate * 128) } ∧
        t.regs.csL0 = csRegValue cs.b0 cs.b1 ∧ t.regs.csR0 = csRegValue cs.b0 cs.b1 ∧
        t.regs.csL1 = csRegValue cs.b2 cs.b3 ∧ t.regs.csR1 = csRegValue cs.b2 cs.b3 ∧
        t.own .fmtctrl = s.own .fmtctrl ∧
        Gains s t [.regUpdateBits .clkctrl (s.params.layout.divSel ||| s.params.layout.divExtra) 0,
           .clkSetRate .master (rate * 128) .ok,
           .regWrite .csL0 (csRegValue cs.b0 cs.b1), .regWrite .csR0 (csRegValue cs.b0 cs.b1),
           .regWrite .csL1 (csRegValue cs.b2 cs.b3), .regWrite .csR1 (csRegValue cs.b2 cs.b3)] ∧ t.seq = .idle)

/-- R155, R156: what a CONFIGURE leaves unchanged, however it ends: the gate, every clock's enable and parent, the
divider enable and every other bit of `CLKCTRL` outside the divider clear, `MEMCTRL`, `HOLDCTRL`, and every bit of
`FMTCTRL` outside the format mask (`NON_PCM` among them where it is not foreign: log entry 11). -/
def Obligations.ConfigureFrame : Prop :=
  ∀ (s t : State) (rate : Rate) (width channels : Byte) (csOk : Bool) (cs : CsBytes),
    exec (.configure rate width channels csOk cs) s = .next t →
    t.params = s.params ∧ t.gate = s.gate ∧ t.latches = ⟨rate, width, channels, csOk, cs⟩ ∧
    (∀ c, t.clk.en c = s.clk.en c) ∧ t.clk.parentMaster = s.clk.parentMaster ∧
    t.own .memctrl = s.own .memctrl ∧ t.own .holdctrl = s.own .holdctrl ∧
    t.own .clkctrl &&& ~~~(s.params.layout.divSel ||| s.params.layout.divExtra) =
      s.own .clkctrl &&& ~~~(s.params.layout.divSel ||| s.params.layout.divExtra) ∧
    t.own .fmtctrl &&& ~~~(fmtMask s.params) = s.own .fmtctrl &&& ~~~(fmtMask s.params) ∧
    KeepsForeignBits s t ∧ t.env.commands = s.env.commands ∧ t.refused = (s.refused || !rateInRange rate)

/-- R157: the master-clock target is the rate times 128 with no overflow, it is what the provider is asked for whatever
the width and the channel count are, and it is stated for the declared rates too. That it holds whatever the outcome of
the external encode is rests on the spec's decision D29, that an accepted rate is recorded on its D9, the range of the
rates on its D20 (log entry 21), and the declared rates are those of the constant of log entry 23. -/
def Obligations.MasterTargetIsRateTimes128 : Prop :=
  (∀ rate : Rate, 0 < rate.toNat → rate.toNat < 2 ^ 57 → (masterTarget rate).toNat = rate.toNat * 128) ∧
  (∀ (s : State) (rate : Rate) (width channels : Byte) (csOk : Bool) (cs : CsBytes),
    s.clk.enFast = true → s.answer 0 = .ok → 0 < rate.toNat → rate.toNat < 2 ^ 57 →
    ∃ t hz, exec (.configure rate width channels csOk cs) s = .next t ∧ t.clk.rateReqMaster = some hz ∧
      hz.toNat = rate.toNat * 128) ∧
  Config.capabilities.sampleRatesHz.map (fun r => (masterTarget (BitVec.ofNat 64 r)).toNat) =
    [4096000, 5644800, 6144000, 12288000, 24576000]

/-- R159 (a): the channel count changes nothing but its own latch. (The treatment of the count is the spec's decision
D20.) -/
def Obligations.ChannelCountIsNeverRead : Prop :=
  ∀ (s : State) (rate : Rate) (width ch ch' : Byte) (csOk : Bool) (cs : CsBytes),
    ∃ t t', exec (.configure rate width ch csOk cs) s = .next t ∧ exec (.configure rate width ch' csOk cs) s = .next t' ∧
      { t' with latches := { t'.latches with channels := ch } } = t

/-- R122 (a), R126: widths 24 and 32 issue the same transactions; only the width latch tells the states apart. -/
def Obligations.Width24ActsAsWidth32 : Prop :=
  ∀ (s : State) (rate : Rate) (channels : Byte) (csOk : Bool) (cs : CsBytes),
    ∃ t t', exec (.configure rate 24 channels csOk cs) s = .next t ∧ exec (.configure rate 32 channels csOk cs) s = .next t' ∧
      { t' with latches := { t'.latches with width := 24 } } = t

/-- R74: when the external encode failed the value of `PB_CS` is ignored: it changes nothing but its own latch. -/
def Obligations.FailedEncodeIgnoresTheBytes : Prop :=
  ∀ (s : State) (rate : Rate) (width channels : Byte) (cs cs' : CsBytes),
    ∃ t t', exec (.configure rate width channels false cs) s = .next t ∧
      exec (.configure rate width channels false cs') s = .next t' ∧
      { t' with latches := { t'.latches with cs := cs } } = t

/-- R113: every byte combination is accepted and written, and no bit of it changes anything but the four channel-status
registers, their writes and the latch. That those writes are whole-register writes is the spec's decision D16. The
statement is for a state with `fast` off too, where the fault mark is set and the registers are the bookkeeping of the
spec's decision D19 and of log entry 13, and say nothing of the hardware (R60). -/
def Obligations.StatusBytesChangeNothingElse : Prop :=
  ∀ (s : State) (rate : Rate) (width channels : Byte) (cs cs' : CsBytes),
    ∃ t t', exec (.configure rate width channels true cs) s = .next t ∧
      exec (.configure rate width channels true cs') s = .next t' ∧
      t'.resp = t.resp ∧ t'.fault = t.fault ∧ t'.refused = t.refused ∧ t'.gate = t.gate ∧ t'.clk = t.clk ∧
      t'.seq = t.seq ∧ t'.params = t.params ∧ t'.env = t.env ∧ t'.trace.length = t.trace.length ∧
      (∀ r, r = .clkctrl ∨ r = .memctrl ∨ r = .holdctrl ∨ r = .fmtctrl → t'.regs.get r = t.regs.get r) ∧
      (∀ k : Nat, ∀ x ∈ t.trace[k]?, ∀ y ∈ t'.trace[k]?, x = y ∨ ∃ r v w, x = .regWrite r v ∧ y = .regWrite r w) ∧
      (s.answer 0 = .ok → 0 < rate.toNat → rate.toNat < 2 ^ 57 →
        t.resp ≠ .formatError ∧
        t.regs.csL0.extractLsb' 0 16 = csWord0 cs ∧ t.regs.csR0.extractLsb' 0 16 = csWord0 cs ∧
        t.regs.csL1.extractLsb' 0 16 = csWord1 cs ∧ t.regs.csR1.extractLsb' 0 16 = csWord1 cs)

/-- R111: the packing of two bytes, and which bytes make the two half-words. -/
def Obligations.PackingPutsTheEarlierByteHigh : Prop :=
  (∀ a b : Byte, pack16 a b = b.zeroExtend 16 ||| (a.zeroExtend 16 <<< 8) ∧ (pack16 a b).toNat = 256 * a.toNat + b.toNat ∧
    (pack16 a b).extractLsb' 8 8 = a ∧ (pack16 a b).extractLsb' 0 8 = b) ∧
  ∀ cs : CsBytes, csWord0 cs = pack16 cs.b0 cs.b1 ∧ csWord1 cs = pack16 cs.b2 cs.b3

/-- R115: once CS_WRITE has run the four registers give the bytes back, and they keep their values until the next
channel-status write. -/
def Obligations.ChannelStatusReadsBack : Prop :=
  (∀ (s : State) (rate : Rate) (width channels : Byte) (cs : CsBytes),
    s.clk.enFast = true → s.answer 0 = .ok → 0 < rate.toNat → rate.toNat < 2 ^ 57 →
    ∃ t, exec (.configure rate width channels true cs) s = .next t ∧
      t.regs.csL0.extractLsb' 0 16 = csWord0 cs ∧ t.regs.csR0.extractLsb' 0 16 = csWord0 cs ∧
      t.regs.csL1.extractLsb' 0 16 = csWord1 cs ∧ t.regs.csR1.extractLsb' 0 16 = csWord1 cs ∧
      csUnpack (t.regs.csL0.extractLsb' 0 16) (t.regs.csL1.extractLsb' 0 16) = cs ∧
      csUnpack (t.regs.csR0.extractLsb' 0 16) (t.regs.csR1.extractLsb' 0 16) = cs) ∧
  ∀ (s t : State) (new : List Transaction), step s = .next t → Gains s t new →
    (∀ x ∈ new, ∀ v, x ≠ .regWrite .csL0 v) →
    t.regs.csL0 = s.regs.csL0 ∧ t.regs.csR0 = s.regs.csR0 ∧ t.regs.csL1 = s.regs.csL1 ∧ t.regs.csR1 = s.regs.csR1

/-- R124: after a successful FMT_CONFIG exactly one of the two mode bits is set, both auxiliary flags are, and for
width 16 the alignment is 2. -/
def Obligations.FormatRegisterAfterConfigure : Prop :=
  ∀ (s : State) (rate : Rate) (width channels : Byte) (cs : CsBytes),
    s.params.layout.wf = true → s.clk.enFast = true → s.answer 0 = .ok →
    0 < rate.toNat → rate.toNat < 2 ^ 57 → width = 16 ∨ width = 24 ∨ width = 32 →
    ∃ t, exec (.configure rate width channels true cs) s = .next t ∧
      ((t.field .mode16 = 1 ∧ t.field .mode32 = 0) ∨ (t.field .mode16 = 0 ∧ t.field .mode32 = 1)) ∧
      (width = 16 → t.field .mode16 = 1 ∧ t.field .align16 = 2) ∧ t.field .ufs = 1 ∧ t.field .flr = 1

/-- R123: any other width fails with `UnsupportedFormatError` and issues no format write; what earlier stages wrote
stays. What they wrote rests on the spec's decisions: the cleared divider fields on D14, the recorded rate on D9
(log entry 21). -/
def Obligations.UnsupportedWidthIsRejected : Prop :=
  ∀ (s : State) (rate : Rate) (width channels : Byte) (cs : CsBytes),
    s.clk.enFast = true → s.answer 0 = .ok → 0 < rate.toNat → rate.toNat < 2 ^ 57 →
    ((width ≠ 16 ∧ width ≠ 24 ∧ width ≠ 32) ↔
      ∃ t, exec (.configure rate width channels true cs) s = .next t ∧ t.resp = .unsupportedFormatError) ∧
    ∀ t, exec (.configure rate width channels true cs) s = .next t → t.resp = .unsupportedFormatError →
      t.own .fmtctrl = s.own .fmtctrl ∧ t.clk.rateReqMaster = some (rate * 128) ∧
      t.field .divSel = 0 ∧ t.field .divExtra = 0 ∧
      t.regs.csL0.extractLsb' 0 16 = csWord0 cs ∧ t.regs.csR0.extractLsb' 0 16 = csWord0 cs ∧
      t.regs.csL1.extractLsb' 0 16 = csWord1 cs ∧ t.regs.csR1.extractLsb' 0 16 = csWord1 cs ∧
      ∃ new, Gains s t new ∧ ∀ x ∈ new, x.target ≠ some .fmtctrl

/-- R54, R158: repeating a CONFIGURE that succeeded, with the provider accepting again, leaves the engine's bits of
every register and the clocks as the first one did. -/
def Obligations.ConfigureMayBeRepeated : Prop :=
  ∀ (s t u : State) (rate : Rate) (width channels : Byte) (cs : CsBytes),
    exec (.configure rate width channels true cs) s = .next t → t.resp = .ok → t.refused = false →
    exec (.configure rate width channels true cs) t = .next u → u.resp = .ok →
    (∀ r, u.own r = t.own r) ∧ u.clk = t.clk ∧ u.gate = t.gate ∧ u.fault = t.fault ∧ u.latches = t.latches

/-! ### TRIGGER and the gate -/

/-- R134: the start-class commands enable the divider, then clear the hold bit. -/
def Obligations.StartClassOpensTheGate : Prop :=
  ∀ (s : State) (i : Instr), s.params.layout.wf = true → s.clk.enFast = true →
    i = .triggerStart ∨ i = .triggerResume ∨ i = .triggerPauseRelease →
    ∃ t, exec i s = .next t ∧ t.field .divEn = 1 ∧ t.field .holdEn = 0 ∧ t.gate = .flowing ∧ t.resp = .ok ∧
      t.seq = .idle ∧ t.fault = s.fault ∧
      ∃ x y, Gains s t [x, y] ∧ x.target = some .clkctrl ∧ y.target = some .holdctrl ∧
        fieldGet s.params.layout.divEn (replayRegs [x] s.regs).clkctrl = 1 ∧
        fieldGet s.params.layout.holdEn (replayRegs [x] s.regs).holdctrl = s.field .holdEn

/-- R135: the stop-class commands set the hold bit, then disable the divider. -/
def Obligations.StopClassClosesTheGate : Prop :=
  ∀ (s : State) (i : Instr), s.params.layout.wf = true → s.clk.enFast = true →
    i = .triggerStop ∨ i = .triggerSuspend ∨ i = .triggerPausePush →
    ∃ t, exec i s = .next t ∧ t.field .holdEn = 1 ∧ t.field .divEn = 0 ∧ t.gate = .held ∧ t.resp = .ok ∧
      t.seq = .idle ∧ t.fault = s.fault ∧
      ∃ x y, Gains s t [x, y] ∧ x.target = some .holdctrl ∧ y.target = some .clkctrl ∧
        fieldGet s.params.layout.holdEn (replayRegs [x] s.regs).holdctrl = 1 ∧
        fieldGet s.params.layout.divEn (replayRegs [x] s.regs).clkctrl = s.field .divEn

/-- R130 to R135, R139, R142: what the six named TRIGGERs issue and what they leave unchanged: every clock, every latch,
every register but `CLKCTRL` and `HOLDCTRL`, and of those every bit but `DIV_EN` and `HOLD_EN`. That each of the two
writes is a masked update of the one bit is the spec's decision D15. -/
def Obligations.TriggerFrame : Prop :=
  ∀ (s t : State) (i : Instr),
    i = .triggerStart ∨ i = .triggerResume ∨ i = .triggerPauseRelease ∨
      i = .triggerStop ∨ i = .triggerSuspend ∨ i = .triggerPausePush →
    exec i s = .next t →
    t.params = s.params ∧ t.latches = s.latches ∧ t.refused = s.refused ∧ t.clk = s.clk ∧
    (∀ r, r ≠ .clkctrl → r ≠ .holdctrl → t.own r = s.own r) ∧
    t.own .clkctrl &&& ~~~s.params.layout.divEn = s.own .clkctrl &&& ~~~s.params.layout.divEn ∧
    t.own .holdctrl &&& ~~~s.params.layout.holdEn = s.own .holdctrl &&& ~~~s.params.layout.holdEn ∧
    KeepsForeignBits s t ∧ t.env.commands = s.env.commands ∧ t.env.clkAnswers = s.env.clkAnswers ∧
    (i = .triggerStart ∨ i = .triggerResume ∨ i = .triggerPauseRelease →
      Gains s t [.regUpdateBits .clkctrl s.params.layout.divEn s.params.layout.divEn,
        .regUpdateBits .holdctrl s.params.layout.holdEn 0]) ∧
    (i = .triggerStop ∨ i = .triggerSuspend ∨ i = .triggerPausePush →
      Gains s t [.regUpdateBits .holdctrl s.params.layout.holdEn s.params.layout.holdEn,
        .regUpdateBits .clkctrl s.params.layout.divEn 0])

/-- R144: a TRIGGER with any code but the six is a command the engine rejects; only the response is written, and the
engine is idle. (The numbers of the codes and the place of the code in the word are the spec's decisions D1, D2.) -/
def Obligations.InvalidTriggerIsRejected : Prop :=
  ∀ (s : State) (code : Byte) (pb : ParamBlock),
    code ≠ 0x00 → code ≠ 0x01 → code ≠ 0x03 → code ≠ 0x04 → code ≠ 0x05 → code ≠ 0x06 →
    decode (0x30000000 ||| code.zeroExtend 32) pb = .ok (.triggerInvalid code) ∧
    exec (.triggerInvalid code) s = .next { s with resp := .invalidCommandError, seq := .idle }

/-- R137: the three members of a class are indistinguishable to the engine. -/
def Obligations.MembersOfAClassAreIndistinguishable : Prop :=
  ∀ s : State,
    exec .triggerResume s = exec .triggerStart s ∧ exec .triggerPauseRelease s = exec .triggerStart s ∧
    exec .triggerSuspend s = exec .triggerStop s ∧ exec .triggerPausePush s = exec .triggerStop s

/-- R37, R136: no command reads `gate`. (R37 is the spec's derivation; the absence of guards is its decision D18.) -/
def Obligations.NoCommandReadsTheGate : Prop :=
  ∀ (i : Instr) (s : State) (g : Gate), ∃ t t', exec i s = .next t ∧ exec i { s with gate := g } = .next t' ∧
    { t' with gate := t.gate } = t

/-- R21: `gate` is written by STARTUP, to `Held`, and by the two gate sequences, and by nothing else. -/
def Obligations.OnlyStartupAndTriggersWriteTheGate : Prop :=
  ∀ (i : Instr) (s t : State), exec i s = .next t → t.gate ≠ s.gate →
    (i = .startup ∧ t.gate = .held) ∨
    ((i = .triggerStart ∨ i = .triggerResume ∨ i = .triggerPauseRelease) ∧ t.gate = .flowing) ∨
    ((i = .triggerStop ∨ i = .triggerSuspend ∨ i = .triggerPausePush) ∧ t.gate = .held)

/-- R145, for every command: at every point between its transactions data is permitted only while the divider is
enabled, if it was so before. R145 is the spec's derivation, for the gate sequences alone. For STARTUP it rests on R150
and R153, for SHUTDOWN on R163, for CONFIGURE on R156 with R56 (f) and the spec's decision D14, by which the divider clear
leaves `DIV_EN` out. -/
def Obligations.DataNeverFlowsWithoutTheDivider : Prop :=
  ∀ (i : Instr) (s t : State) (before after : List Transaction), s.params.layout.wf = true →
    exec i s = .next t → t.fault = none → Gains s t (before ++ after) →
    dataNeedsDivider s.params.layout s.regs → dataNeedsDivider s.params.layout (replayRegs before s.regs)

/-! ### SHUTDOWN -/

/-- R163, R98: SHUTDOWN, from every state: its whole effect and its frame. (That it writes neither the gate nor a
register is the spec's decision D18, the release order its D12.) -/
def Obligations.ShutdownReleasesTheClocks : Prop :=
  ∀ s : State, ∃ t, exec .shutdown s = .next t ∧
    t.clk = { s.clk with enFast := false, enIface := false, enMaster := false } ∧ t.resp = .ok ∧ t.seq = .idle ∧
    Gains s t [.clkDisableUnprepare .iface, .clkDisableUnprepare .master, .clkDisableUnprepare .fast] ∧
    t.params = s.params ∧ t.gate = s.gate ∧ t.latches = s.latches ∧ t.fault = s.fault ∧ t.refused = s.refused ∧
    (∀ r, t.own r = s.own r) ∧ KeepsForeignBits s t ∧ t.env.commands = s.env.commands ∧
    t.env.clkAnswers = s.env.clkAnswers

/-- R164: a SHUTDOWN after a STARTUP, however that ended, leaves no clock enabled and answers `Ok`. (The spec's
derivation from R151 and R163.) -/
def Obligations.ShutdownAfterAnyStartup : Prop :=
  ∀ s t : State, exec .startup s = .next t → ∃ u, exec .shutdown t = .next u ∧ u.resp = .ok ∧
    u.clk.en .fast = false ∧ u.clk.en .iface = false ∧ u.clk.en .master = false ∧ u.fault = s.fault

/-- R214: a SHUTDOWN while data flows leaves the gate, the hold bit and the divider enable as they are; the next STARTUP
sets the hold and does not touch the divider enable. (The spec's derivation from R150 and R163.) R189 and U15 bar a claim
about a field that STARTUP does not rewrite from resting on registers kept while `fast` is off, so STARTUP is stated for
whatever registers `b` it finds: `DIV_EN` is then what it found. That the registers just after the SHUTDOWN are those
before it rests on the spec's decision D21 (log entry 14). -/
def Obligations.RestartAfterShutdownLeavesTheDivider : Prop :=
  ∀ s : State, s.params.layout.wf = true → s.gate = .flowing → s.field .divEn = 1 → s.field .holdEn = 0 →
    s.answer 0 = .ok → s.answer 1 = .ok → s.answer 2 = .ok → s.answer 3 = .ok →
    ∃ t, exec .shutdown s = .next t ∧ t.gate = .flowing ∧ t.field .divEn = 1 ∧ t.field .holdEn = 0 ∧
      ∀ b : RegBlock, ∃ u new, exec .startup { t with regs := b } = .next u ∧
        u.gate = .held ∧ u.field .holdEn = 1 ∧ u.field .divEn = fieldGet s.params.layout.divEn b.clkctrl ∧ u.resp = .ok ∧
        Gains t u new ∧ ∀ x ∈ new, x.target ≠ some .clkctrl

/-! ### Marks -/

/-- R60, R211: a command that reaches the register bus while `fast` is off sets the fault, with the register of its
first register transaction, and an earlier mark is kept (R177). -/
def Obligations.UnclockedCommandsSetTheFault : Prop :=
  ∀ (s : State) (i : Instr), needsFast i = true → s.clk.enFast = false →
    ∃ t r, exec i s = .next t ∧ t.fault = some (s.fault.getD (.unclockedRegAccess r)) ∧
      (i = .triggerStop ∨ i = .triggerSuspend ∨ i = .triggerPausePush → r = .holdctrl) ∧
      (¬ (i = .triggerStop ∨ i = .triggerSuspend ∨ i = .triggerPausePush) → r = .clkctrl)

/-- R60: every other command, and every command while `fast` is enabled, sets no fault: STARTUP, SHUTDOWN and a
rejected TRIGGER never do. -/
def Obligations.ClockedCommandsSetNoFault : Prop :=
  ∀ (s : State) (i : Instr), needsFast i = false ∨ s.clk.enFast = true →
    ∃ t, exec i s = .next t ∧ t.fault = s.fault

/-- R25, R29: no step clears a mark, and the trace only grows. -/
def Obligations.MarksAndTraceAreNeverCleared : Prop :=
  ∀ s t : State, step s = .next t →
    (∀ f, s.fault = some f → t.fault = some f) ∧ (s.refused = true → t.refused = true) ∧ s.trace <+: t.trace

/-! ### The whole machine -/

/-- R29, R61, R166: the transactions a step adds to the trace, replayed in order over the two devices, give the clocks
and the engine's bits of every register; the foreign bits are the foreign agents' alone; every transaction is one that
R68, R51 and R52 allow; there are at most seven. (The bound is the spec's derivation.) -/
def Obligations.TraceExplainsTheDevices : Prop :=
  ∀ s t : State, step s = .next t → ∃ new,
    Gains s t new ∧ new.length ≤ 7 ∧ t.clk = replayClk new s.clk ∧
    (∀ r, t.own r = (replayRegs new s.regs).get r &&& ownMask s.params r) ∧
    (∀ r, t.foreignBits r = (foreignTurns (new.length + 1) s).foreignBits r) ∧
    ∀ x ∈ new, x.allowed s.params

/-- R99, R61: inside one command no fallible clock call is issued twice, and after one that failed no other is issued. -/
def Obligations.NoClockCallIsRetried : Prop :=
  ∀ (i : Instr) (s t : State) (new : List Transaction), exec i s = .next t → Gains s t new →
    (new.filterMap Transaction.call).Nodup ∧
    ∀ before x after, new = before ++ x :: after → x.failed = true → ∀ y ∈ after, y.call = none

/-- R171, R178, R179: a command answers a clock error exactly when one of its clock calls failed, with that call's
payload unchanged. Shut out of the second clause is only the CONFIGURE that is itself refused, because it leaves the
response as it was (R176). -/
def Obligations.ClockErrorsAreReportedVerbatim : Prop :=
  ∀ (i : Instr) (s t : State) (new : List Transaction), exec i s = .next t → Gains s t new →
    ((∃ x ∈ new, x.failed = true) → ∃ stage e, t.resp = .clockError stage e) ∧
    ∀ stage e, t.resp = .clockError stage e →
      (∀ rate width channels csOk cs, i = .configure rate width channels csOk cs → rateInRange rate = true) →
      (match stage with
        | .acquireFast => .clkPrepareEnable .fast (.err e) ∈ new
        | .setParent => .clkSetParent .master .masterSelect (.err e) ∈ new
        | .enableIface => .clkPrepareEnable .iface (.err e) ∈ new
        | .enableMaster => .clkPrepareEnable .master (.err e) ∈ new
        | .setRate => ∃ hz, .clkSetRate .master hz (.err e) ∈ new)

/-- R23, R36: the latches are written by the acceptance of a CONFIGURE and by nothing else, and no step writes a
parameter. -/
def Obligations.OnlyConfigureWritesTheLatches : Prop :=
  (∀ (i : Instr) (s t : State), exec i s = .next t →
    (∀ rate width channels csOk cs, i = .configure rate width channels csOk cs →
      t.latches = ⟨rate, width, channels, csOk, cs⟩) ∧
    ((∀ rate width channels csOk cs, i ≠ .configure rate width channels csOk cs) → t.latches = s.latches)) ∧
  ∀ s t : State, step s = .next t → t.params = s.params ∧ t.clk.enMasterSelect = s.clk.enMasterSelect

/-- R31: once `LINEAR` is set no step clears it. -/
def Obligations.LinearModeStaysSet : Prop :=
  ∀ s t : State, s.params.layout.wf = true → s.field .linear = 1 → step s = .next t → t.field .linear = 1

/-- R21: every step keeps `gate` in agreement with the last hold value the engine wrote. -/
def Obligations.StepKeepsHoldRecorded : Prop :=
  ∀ s t : State, s.params.layout.wf = true → HoldRecorded s → step s = .next t → HoldRecorded t

/-- R35, R124: every step keeps the FormatControlWord invariant. -/
def Obligations.StepKeepsFormatLegal : Prop :=
  ∀ s t : State, s.params.layout.wf = true → FormatLegal s → step s = .next t → FormatLegal t

/-- R34: every step keeps the two channel-status banks in agreement, as whole registers, with zero high halves. The
whole-register writes and the zero high halves are the spec's decisions D16 and D30 (log entry 21), and D30 says that a
claim should not read the upper half: the low halves are R34's. -/
def Obligations.StepKeepsBanksAgree : Prop :=
  ∀ s t : State, BanksAgree s → step s = .next t → BanksAgree t

/-- R39: every step keeps the parent of `master` at `masterSelect` while `master` is enabled. -/
def Obligations.StepKeepsParentBeforeEnable : Prop :=
  ∀ s t : State, ParentBeforeEnable s → step s = .next t → ParentBeforeEnable t

/-- R210, R211: a host that keeps the order of commands never reaches the fault, from any state in which it may start,
reset among them. -/
def Obligations.OrderedHostNeverFaults : Prop :=
  ∀ (commands : List Instr) (started : Bool) (s : State), s.fault = none →
    (started = true → s.clk.enFast = true) → hostKeepsOrder started commands s →
    ∃ t, execAll commands s = .next t ∧ t.fault = none
end

