-- ==== Sys2Proof/Laws/Fields.lean ====
section
/-! SUPPORT. What a well-formed layout gives (R56), and how fields read under masked updates (R52, R55). -/

namespace Sys2Proof.Machine

theorem Field.mem_all (f : Field) : f ∈ Field.all := by cases f <;> decide

theorem Reg.mem_all (r : Reg) : r ∈ Reg.all := by cases r <;> decide

/-- R56 (f). -/
theorem wf_disjoint {L : Layout} (h : L.wf = true) {f g : Field} (hne : f ≠ g) (hr : f.reg = g.reg) :
    L.mask f &&& L.mask g = 0 := by
  simp only [Layout.wf, Bool.and_eq_true, Layout.masksDisjoint, List.all_eq_true] at h
  simpa [hne, hr] using h.2 f (Field.mem_all f) g (Field.mem_all g)

/-- R56 (a). -/
theorem wf_addr_inj {L : Layout} (h : L.wf = true) {r r' : Reg} (e : L.addr r = L.addr r') : r = r' := by
  simp only [Layout.wf, Bool.and_eq_true, Layout.addrsDistinct, decide_eq_true_eq] at h
  exact List.inj_on_of_nodup_map h.1.1.1.1 (Reg.mem_all r) (Reg.mem_all r') e

theorem isRunOf_iff {len : Nat} {k : Word} : isRunOf len k = true ↔ ∃ lo, lo < 33 - len ∧ k = runMask lo len := by
  simp [isRunOf]

/-- The nine fields of R56 (c). -/
def oneBit : Field → Bool
  | .divEn | .divExtra | .linear | .holdEn | .nonPcm | .mode16 | .mode32 | .ufs | .flr => true
  | .divSel | .align16 | .shift32 => false

/-- R56 (c). -/
theorem wf_oneBit {L : Layout} (h : L.wf = true) {f : Field} (hf : oneBit f = true) :
    ∃ lo, lo < 32 ∧ L.mask f = runMask lo 1 := by
  simp only [Layout.wf, Bool.and_eq_true, Layout.oneBitFields, List.all_eq_true] at h
  refine isRunOf_iff.1 (h.1.1.2 f ?_)
  cases f <;> simp_all [oneBit]

/-- R56 (d). -/
theorem wf_align16 {L : Layout} (h : L.wf = true) : ∃ lo, lo < 31 ∧ L.align16 = runMask lo 2 := by
  simp only [Layout.wf, Bool.and_eq_true, Layout.align16HasTwoBits] at h
  exact isRunOf_iff.1 h.1.2

theorem lowestSetBit_one : ∀ lo < 32, lowestSetBit (runMask lo 1) = lo := by decide

theorem lowestSetBit_two : ∀ lo < 31, lowestSetBit (runMask lo 2) = lo := by decide

theorem fieldGet_self_one : ∀ lo < 32, fieldGet (runMask lo 1) (runMask lo 1) = 1 := by decide

@[simp] theorem fieldGet_zero (k : Word) : fieldGet k 0#32 = 0#32 := by simp [fieldGet]

theorem fieldGet_align_two :
    ∀ lo < 31, fieldGet (runMask lo 2) (fieldPut (runMask lo 2) 2) = 2 := by decide

/-- A field reads only the bits under its mask. -/
theorem fieldGet_and (k w : Word) : fieldGet k (w &&& k) = fieldGet k w := by
  simp [fieldGet, BitVec.and_assoc]

theorem fieldGet_congr {k w w' : Word} (h : w &&& k = w' &&& k) : fieldGet k w = fieldGet k w' := by
  simp [fieldGet, h]

/-- A one-bit mask has its one bit. -/
theorem runMask_one_bit {lo : Nat} (hlo : lo < 32) (i : Nat) :
    (runMask lo 1).getLsbD i = decide (i = lo) := by
  simp only [runMask, BitVec.getLsbD_ofNat, Nat.reducePow, Nat.add_one_sub_one, one_mul, Nat.testBit_two_pow]
  by_cases h : i = lo <;> simp_all [eq_comm]

/-- Under a one-bit mask a word shows its bit. -/
theorem and_runMask_one {lo : Nat} (hlo : lo < 32) (w : Word) :
    w &&& runMask lo 1 = if w.getLsbD lo then runMask lo 1 else 0 := by
  apply BitVec.eq_of_getLsbD_eq
  intro i hi
  rw [BitVec.getLsbD_and, runMask_one_bit hlo]
  by_cases e : i = lo
  · subst e; by_cases hb : w.getLsbD i <;> simp [hb, runMask_one_bit hlo]
  · by_cases hb : w.getLsbD lo <;> simp [hb, e, runMask_one_bit hlo]

/-- A one-bit field reads 0 or 1. -/
theorem fieldGet_one_cases {lo : Nat} (hlo : lo < 32) (w : Word) :
    fieldGet (runMask lo 1) w = 0 ∨ fieldGet (runMask lo 1) w = 1 := by
  rw [← fieldGet_and, and_runMask_one hlo]
  by_cases hb : w.getLsbD lo
  · exact .inr (by simpa [hb] using fieldGet_self_one lo hlo)
  · exact .inl (by simp [hb])

/-- Disjointness, bit by bit. -/
theorem bits_disjoint {k m : Word} (h : k &&& m = 0) (i : Nat) (hk : k.getLsbD i = true) : m.getLsbD i = false := by
  have := congrArg (fun w : Word => w.getLsbD i) h
  simpa [hk] using this

/-- Inclusion, bit by bit. -/
theorem bits_subset {k m : Word} (h : k &&& ~~~m = 0) {i : Nat} (hi : i < 32) (hk : k.getLsbD i = true) :
    m.getLsbD i = true := by
  have := congrArg (fun w : Word => w.getLsbD i) h
  simpa [hk, hi] using this

/-- A masked update leaves the bits outside its mask (R52). -/
theorem maskedValue_disjoint {k m : Word} (h : k &&& m = 0) (old v : Word) :
    maskedValue old m v &&& k = old &&& k := by
  apply BitVec.eq_of_getLsbD_eq
  intro i hi
  have := bits_disjoint h i
  cases hk : k.getLsbD i <;> simp_all [maskedValue]

/-- A masked update shows its value under its mask (R52). -/
theorem maskedValue_subset {k m : Word} (h : k &&& ~~~m = 0) (old v : Word) :
    maskedValue old m v &&& k = v &&& k := by
  apply BitVec.eq_of_getLsbD_eq
  intro i hi
  have := bits_subset h hi
  cases hk : k.getLsbD i <;> simp_all [maskedValue]

/-- A masked update of a register that was masked before, under the same mask. -/
theorem maskedValue_and (old m v o : Word) : maskedValue (old &&& o) m v &&& o = maskedValue old m v &&& o := by
  apply BitVec.eq_of_getLsbD_eq
  intro i hi
  cases h : o[i] <;> simp [maskedValue, h, hi]

theorem fieldGet_masked_disjoint {k m : Word} (h : k &&& m = 0) (old v : Word) :
    fieldGet k (maskedValue old m v) = fieldGet k old := fieldGet_congr (maskedValue_disjoint h old v)

theorem fieldGet_masked_subset {k m : Word} (h : k &&& ~~~m = 0) (old v : Word) :
    fieldGet k (maskedValue old m v) = fieldGet k v := fieldGet_congr (maskedValue_subset h old v)

theorem fieldGet_or (k a b : Word) : fieldGet k (a ||| b) = fieldGet k a ||| fieldGet k b := by
  apply BitVec.eq_of_getLsbD_eq
  intro i hi
  simp only [fieldGet, BitVec.getLsbD_ushiftRight, BitVec.getLsbD_and, BitVec.getLsbD_or]
  cases a.getLsbD (lowestSetBit k + i) <;> cases b.getLsbD (lowestSetBit k + i) <;>
    cases k.getLsbD (lowestSetBit k + i) <;> rfl

/-- A field reads 0 of a value outside it. -/
theorem fieldGet_disjoint {k w : Word} (h : k &&& w = 0) : fieldGet k w = 0 := by
  rw [fieldGet, BitVec.and_comm, h]; exact BitVec.zero_ushiftRight

/-- A field reads 0 of another field's mask in the same register (R56 (f)). -/
theorem fieldGet_other {L : Layout} (h : L.wf = true) {f g : Field} (hne : f ≠ g) (hr : f.reg = g.reg) :
    fieldGet (L.mask f) (L.mask g) = 0 := fieldGet_disjoint (wf_disjoint h hne hr)

/-- A field reads 0 of a value put into another field of the same register (R55, R56 (f)). -/
theorem fieldGet_otherPut {L : Layout} (h : L.wf = true) {f g : Field} (hne : f ≠ g) (hr : f.reg = g.reg) (x : Word) :
    fieldGet (L.mask f) (fieldPut (L.mask g) x) = 0 := by
  apply fieldGet_disjoint
  rw [fieldPut, BitVec.and_comm (x <<< _), ← BitVec.and_assoc, wf_disjoint h hne hr]
  simp

/-- A one-bit field reads 1 of its own mask (R55). -/
theorem fieldGet_self {L : Layout} (h : L.wf = true) {f : Field} (hf : oneBit f = true) :
    fieldGet (L.mask f) (L.mask f) = 1 := by
  obtain ⟨lo, hlo, hm⟩ := wf_oneBit h hf
  rw [hm, fieldGet_self_one lo hlo]

/-- The alignment field reads back the 2 put into it (R55, R56 (d)). -/
theorem fieldGet_align16 {L : Layout} (h : L.wf = true) : fieldGet L.align16 (fieldPut L.align16 2) = 2 := by
  obtain ⟨lo, hlo, hm⟩ := wf_align16 h
  rw [hm, fieldGet_align_two lo hlo]

/-- A bit that is set by an update of that one bit reads 1. -/
theorem fieldGet_set {lo : Nat} (hlo : lo < 32) (old : Word) :
    fieldGet (runMask lo 1) (maskedValue old (runMask lo 1) (runMask lo 1)) = 1 := by
  rw [fieldGet_masked_subset (by simp), fieldGet_self_one lo hlo]

/-- A bit that is cleared by an update of that one bit reads 0. -/
theorem fieldGet_clear (k old : Word) : fieldGet k (maskedValue old k 0#32) = 0#32 := by
  rw [fieldGet_masked_subset (by simp), fieldGet_zero]

end Sys2Proof.Machine
end

