-- ==== Sys2Proof/Laws/State.lean ====
section
/-! SUPPORT. One lemma per field per update of `State`, so that no later proof unfolds a record update. -/

namespace Sys2Proof.Machine

@[simp] theorem emit_params (t : Transaction) (s : State) : (emit t s).params = s.params := rfl
@[simp] theorem emit_gate (t : Transaction) (s : State) : (emit t s).gate = s.gate := rfl
@[simp] theorem emit_seq (t : Transaction) (s : State) : (emit t s).seq = s.seq := rfl
@[simp] theorem emit_latches (t : Transaction) (s : State) : (emit t s).latches = s.latches := rfl
@[simp] theorem emit_resp (t : Transaction) (s : State) : (emit t s).resp = s.resp := rfl
@[simp] theorem emit_fault (t : Transaction) (s : State) : (emit t s).fault = s.fault := rfl
@[simp] theorem emit_refused (t : Transaction) (s : State) : (emit t s).refused = s.refused := rfl
@[simp] theorem emit_clk (t : Transaction) (s : State) : (emit t s).clk = s.clk := rfl
@[simp] theorem emit_regs (t : Transaction) (s : State) : (emit t s).regs = s.regs := rfl
@[simp] theorem emit_trace (t : Transaction) (s : State) : (emit t s).trace = s.trace ++ [t] := rfl
@[simp] theorem emit_env (t : Transaction) (s : State) : (emit t s).env = s.env := rfl

@[simp] theorem setGate_params (g : Gate) (s : State) : (setGate g s).params = s.params := rfl
@[simp] theorem setGate_gate (g : Gate) (s : State) : (setGate g s).gate = g := rfl
@[simp] theorem setGate_seq (g : Gate) (s : State) : (setGate g s).seq = s.seq := rfl
@[simp] theorem setGate_latches (g : Gate) (s : State) : (setGate g s).latches = s.latches := rfl
@[simp] theorem setGate_resp (g : Gate) (s : State) : (setGate g s).resp = s.resp := rfl
@[simp] theorem setGate_fault (g : Gate) (s : State) : (setGate g s).fault = s.fault := rfl
@[simp] theorem setGate_refused (g : Gate) (s : State) : (setGate g s).refused = s.refused := rfl
@[simp] theorem setGate_clk (g : Gate) (s : State) : (setGate g s).clk = s.clk := rfl
@[simp] theorem setGate_regs (g : Gate) (s : State) : (setGate g s).regs = s.regs := rfl
@[simp] theorem setGate_trace (g : Gate) (s : State) : (setGate g s).trace = s.trace := rfl
@[simp] theorem setGate_env (g : Gate) (s : State) : (setGate g s).env = s.env := rfl

@[simp] theorem setSeq_params (q : Seq) (s : State) : (setSeq q s).params = s.params := rfl
@[simp] theorem setSeq_gate (q : Seq) (s : State) : (setSeq q s).gate = s.gate := rfl
@[simp] theorem setSeq_seq (q : Seq) (s : State) : (setSeq q s).seq = q := rfl
@[simp] theorem setSeq_latches (q : Seq) (s : State) : (setSeq q s).latches = s.latches := rfl
@[simp] theorem setSeq_resp (q : Seq) (s : State) : (setSeq q s).resp = s.resp := rfl
@[simp] theorem setSeq_fault (q : Seq) (s : State) : (setSeq q s).fault = s.fault := rfl
@[simp] theorem setSeq_refused (q : Seq) (s : State) : (setSeq q s).refused = s.refused := rfl
@[simp] theorem setSeq_clk (q : Seq) (s : State) : (setSeq q s).clk = s.clk := rfl
@[simp] theorem setSeq_regs (q : Seq) (s : State) : (setSeq q s).regs = s.regs := rfl
@[simp] theorem setSeq_trace (q : Seq) (s : State) : (setSeq q s).trace = s.trace := rfl
@[simp] theorem setSeq_env (q : Seq) (s : State) : (setSeq q s).env = s.env := rfl

@[simp] theorem raise_params (e : Resp) (s : State) : (raise e s).params = s.params := rfl
@[simp] theorem raise_gate (e : Resp) (s : State) : (raise e s).gate = s.gate := rfl
@[simp] theorem raise_seq (e : Resp) (s : State) : (raise e s).seq = .idle := rfl
@[simp] theorem raise_latches (e : Resp) (s : State) : (raise e s).latches = s.latches := rfl
@[simp] theorem raise_resp (e : Resp) (s : State) : (raise e s).resp = e := rfl
@[simp] theorem raise_fault (e : Resp) (s : State) : (raise e s).fault = s.fault := rfl
@[simp] theorem raise_refused (e : Resp) (s : State) : (raise e s).refused = s.refused := rfl
@[simp] theorem raise_clk (e : Resp) (s : State) : (raise e s).clk = s.clk := rfl
@[simp] theorem raise_regs (e : Resp) (s : State) : (raise e s).regs = s.regs := rfl
@[simp] theorem raise_trace (e : Resp) (s : State) : (raise e s).trace = s.trace := rfl
@[simp] theorem raise_env (e : Resp) (s : State) : (raise e s).env = s.env := rfl

@[simp] theorem complete_params (s : State) : (complete s).params = s.params := rfl
@[simp] theorem complete_gate (s : State) : (complete s).gate = s.gate := rfl
@[simp] theorem complete_seq (s : State) : (complete s).seq = .idle := rfl
@[simp] theorem complete_latches (s : State) : (complete s).latches = s.latches := rfl
@[simp] theorem complete_resp (s : State) : (complete s).resp = .ok := rfl
@[simp] theorem complete_fault (s : State) : (complete s).fault = s.fault := rfl
@[simp] theorem complete_refused (s : State) : (complete s).refused = s.refused := rfl
@[simp] theorem complete_clk (s : State) : (complete s).clk = s.clk := rfl
@[simp] theorem complete_regs (s : State) : (complete s).regs = s.regs := rfl
@[simp] theorem complete_trace (s : State) : (complete s).trace = s.trace := rfl
@[simp] theorem complete_env (s : State) : (complete s).env = s.env := rfl

@[simp] theorem refuseRate_params (s : State) : (refuseRate s).params = s.params := rfl
@[simp] theorem refuseRate_gate (s : State) : (refuseRate s).gate = s.gate := rfl
@[simp] theorem refuseRate_seq (s : State) : (refuseRate s).seq = .idle := rfl
@[simp] theorem refuseRate_latches (s : State) : (refuseRate s).latches = s.latches := rfl
@[simp] theorem refuseRate_resp (s : State) : (refuseRate s).resp = s.resp := rfl
@[simp] theorem refuseRate_fault (s : State) : (refuseRate s).fault = s.fault := rfl
@[simp] theorem refuseRate_refused (s : State) : (refuseRate s).refused = true := rfl
@[simp] theorem refuseRate_clk (s : State) : (refuseRate s).clk = s.clk := rfl
@[simp] theorem refuseRate_regs (s : State) : (refuseRate s).regs = s.regs := rfl
@[simp] theorem refuseRate_trace (s : State) : (refuseRate s).trace = s.trace := rfl
@[simp] theorem refuseRate_env (s : State) : (refuseRate s).env = s.env := rfl

@[simp] theorem refuseIllegal_params (s : State) : (refuseIllegal s).params = s.params := rfl
@[simp] theorem refuseIllegal_gate (s : State) : (refuseIllegal s).gate = s.gate := rfl
@[simp] theorem refuseIllegal_seq (s : State) : (refuseIllegal s).seq = s.seq := rfl
@[simp] theorem refuseIllegal_latches (s : State) : (refuseIllegal s).latches = s.latches := rfl
@[simp] theorem refuseIllegal_resp (s : State) : (refuseIllegal s).resp = .illegalOp := rfl
@[simp] theorem refuseIllegal_fault (s : State) : (refuseIllegal s).fault = s.fault := rfl
@[simp] theorem refuseIllegal_refused (s : State) : (refuseIllegal s).refused = true := rfl
@[simp] theorem refuseIllegal_clk (s : State) : (refuseIllegal s).clk = s.clk := rfl
@[simp] theorem refuseIllegal_regs (s : State) : (refuseIllegal s).regs = s.regs := rfl
@[simp] theorem refuseIllegal_trace (s : State) : (refuseIllegal s).trace = s.trace := rfl
@[simp] theorem refuseIllegal_env (s : State) : (refuseIllegal s).env = s.env := rfl

@[simp] theorem latch_params (p : Latches) (s : State) : (latch p s).params = s.params := rfl
@[simp] theorem latch_gate (p : Latches) (s : State) : (latch p s).gate = s.gate := rfl
@[simp] theorem latch_seq (p : Latches) (s : State) : (latch p s).seq = s.seq := rfl
@[simp] theorem latch_latches (p : Latches) (s : State) : (latch p s).latches = p := rfl
@[simp] theorem latch_resp (p : Latches) (s : State) : (latch p s).resp = s.resp := rfl
@[simp] theorem latch_fault (p : Latches) (s : State) : (latch p s).fault = s.fault := rfl
@[simp] theorem latch_refused (p : Latches) (s : State) : (latch p s).refused = s.refused := rfl
@[simp] theorem latch_clk (p : Latches) (s : State) : (latch p s).clk = s.clk := rfl
@[simp] theorem latch_regs (p : Latches) (s : State) : (latch p s).regs = s.regs := rfl
@[simp] theorem latch_trace (p : Latches) (s : State) : (latch p s).trace = s.trace := rfl
@[simp] theorem latch_env (p : Latches) (s : State) : (latch p s).env = s.env := rfl

@[simp] theorem present_params (c : Presented) (s : State) : (present c s).params = s.params := rfl
@[simp] theorem present_gate (c : Presented) (s : State) : (present c s).gate = s.gate := rfl
@[simp] theorem present_seq (c : Presented) (s : State) : (present c s).seq = .idle := rfl
@[simp] theorem present_latches (c : Presented) (s : State) : (present c s).latches = s.latches := rfl
@[simp] theorem present_resp (c : Presented) (s : State) : (present c s).resp = s.resp := rfl
@[simp] theorem present_fault (c : Presented) (s : State) : (present c s).fault = s.fault := rfl
@[simp] theorem present_refused (c : Presented) (s : State) : (present c s).refused = s.refused := rfl
@[simp] theorem present_clk (c : Presented) (s : State) : (present c s).clk = s.clk := rfl
@[simp] theorem present_regs (c : Presented) (s : State) : (present c s).regs = s.regs := rfl
@[simp] theorem present_trace (c : Presented) (s : State) : (present c s).trace = s.trace := rfl
@[simp] theorem present_env (c : Presented) (s : State) : (present c s).env = { s.env with commands := c :: s.env.commands } := rfl

@[simp] theorem drawForeign_params (s : State) : (drawForeign s).2.params = s.params := by unfold drawForeign; split <;> rfl
@[simp] theorem drawForeign_gate (s : State) : (drawForeign s).2.gate = s.gate := by unfold drawForeign; split <;> rfl
@[simp] theorem drawForeign_seq (s : State) : (drawForeign s).2.seq = s.seq := by unfold drawForeign; split <;> rfl
@[simp] theorem drawForeign_latches (s : State) : (drawForeign s).2.latches = s.latches := by unfold drawForeign; split <;> rfl
@[simp] theorem drawForeign_resp (s : State) : (drawForeign s).2.resp = s.resp := by unfold drawForeign; split <;> rfl
@[simp] theorem drawForeign_fault (s : State) : (drawForeign s).2.fault = s.fault := by unfold drawForeign; split <;> rfl
@[simp] theorem drawForeign_refused (s : State) : (drawForeign s).2.refused = s.refused := by unfold drawForeign; split <;> rfl
@[simp] theorem drawForeign_clk (s : State) : (drawForeign s).2.clk = s.clk := by unfold drawForeign; split <;> rfl
@[simp] theorem drawForeign_regs (s : State) : (drawForeign s).2.regs = s.regs := by unfold drawForeign; split <;> rfl
@[simp] theorem drawForeign_trace (s : State) : (drawForeign s).2.trace = s.trace := by unfold drawForeign; split <;> rfl

@[simp] theorem drawClk_params (s : State) : (drawClk s).2.params = s.params := by unfold drawClk; split <;> rfl
@[simp] theorem drawClk_gate (s : State) : (drawClk s).2.gate = s.gate := by unfold drawClk; split <;> rfl
@[simp] theorem drawClk_seq (s : State) : (drawClk s).2.seq = s.seq := by unfold drawClk; split <;> rfl
@[simp] theorem drawClk_latches (s : State) : (drawClk s).2.latches = s.latches := by unfold drawClk; split <;> rfl
@[simp] theorem drawClk_resp (s : State) : (drawClk s).2.resp = s.resp := by unfold drawClk; split <;> rfl
@[simp] theorem drawClk_fault (s : State) : (drawClk s).2.fault = s.fault := by unfold drawClk; split <;> rfl
@[simp] theorem drawClk_refused (s : State) : (drawClk s).2.refused = s.refused := by unfold drawClk; split <;> rfl
@[simp] theorem drawClk_clk (s : State) : (drawClk s).2.clk = s.clk := by unfold drawClk; split <;> rfl
@[simp] theorem drawClk_regs (s : State) : (drawClk s).2.regs = s.regs := by unfold drawClk; split <;> rfl
@[simp] theorem drawClk_trace (s : State) : (drawClk s).2.trace = s.trace := by unfold drawClk; split <;> rfl

@[simp] theorem foreignActs_params (s : State) : (foreignActs s).params = s.params := drawForeign_params s
@[simp] theorem foreignActs_gate (s : State) : (foreignActs s).gate = s.gate := drawForeign_gate s
@[simp] theorem foreignActs_seq (s : State) : (foreignActs s).seq = s.seq := drawForeign_seq s
@[simp] theorem foreignActs_latches (s : State) : (foreignActs s).latches = s.latches := drawForeign_latches s
@[simp] theorem foreignActs_resp (s : State) : (foreignActs s).resp = s.resp := drawForeign_resp s
@[simp] theorem foreignActs_fault (s : State) : (foreignActs s).fault = s.fault := drawForeign_fault s
@[simp] theorem foreignActs_refused (s : State) : (foreignActs s).refused = s.refused := drawForeign_refused s
@[simp] theorem foreignActs_clk (s : State) : (foreignActs s).clk = s.clk := drawForeign_clk s
@[simp] theorem foreignActs_trace (s : State) : (foreignActs s).trace = s.trace := drawForeign_trace s

@[simp] theorem markUnclocked_params (r : Reg) (s : State) : (markUnclocked r s).params = s.params := by
  unfold markUnclocked; split <;> [rfl; (split <;> rfl)]
@[simp] theorem markUnclocked_gate (r : Reg) (s : State) : (markUnclocked r s).gate = s.gate := by
  unfold markUnclocked; split <;> [rfl; (split <;> rfl)]
@[simp] theorem markUnclocked_seq (r : Reg) (s : State) : (markUnclocked r s).seq = s.seq := by
  unfold markUnclocked; split <;> [rfl; (split <;> rfl)]
@[simp] theorem markUnclocked_latches (r : Reg) (s : State) : (markUnclocked r s).latches = s.latches := by
  unfold markUnclocked; split <;> [rfl; (split <;> rfl)]
@[simp] theorem markUnclocked_resp (r : Reg) (s : State) : (markUnclocked r s).resp = s.resp := by
  unfold markUnclocked; split <;> [rfl; (split <;> rfl)]
@[simp] theorem markUnclocked_refused (r : Reg) (s : State) : (markUnclocked r s).refused = s.refused := by
  unfold markUnclocked; split <;> [rfl; (split <;> rfl)]
@[simp] theorem markUnclocked_clk (r : Reg) (s : State) : (markUnclocked r s).clk = s.clk := by
  unfold markUnclocked; split <;> [rfl; (split <;> rfl)]
@[simp] theorem markUnclocked_regs (r : Reg) (s : State) : (markUnclocked r s).regs = s.regs := by
  unfold markUnclocked; split <;> [rfl; (split <;> rfl)]
@[simp] theorem markUnclocked_trace (r : Reg) (s : State) : (markUnclocked r s).trace = s.trace := by
  unfold markUnclocked; split <;> [rfl; (split <;> rfl)]
@[simp] theorem markUnclocked_env (r : Reg) (s : State) : (markUnclocked r s).env = s.env := by
  unfold markUnclocked; split <;> [rfl; (split <;> rfl)]

@[simp] theorem updateBits_params (r : Reg) (m v : Word) (s : State) : (updateBits r m v s).params = s.params := by simp [updateBits]
@[simp] theorem updateBits_gate (r : Reg) (m v : Word) (s : State) : (updateBits r m v s).gate = s.gate := by simp [updateBits]
@[simp] theorem updateBits_seq (r : Reg) (m v : Word) (s : State) : (updateBits r m v s).seq = s.seq := by simp [updateBits]
@[simp] theorem updateBits_latches (r : Reg) (m v : Word) (s : State) : (updateBits r m v s).latches = s.latches := by simp [updateBits]
@[simp] theorem updateBits_resp (r : Reg) (m v : Word) (s : State) : (updateBits r m v s).resp = s.resp := by simp [updateBits]
@[simp] theorem updateBits_refused (r : Reg) (m v : Word) (s : State) : (updateBits r m v s).refused = s.refused := by simp [updateBits]
@[simp] theorem updateBits_clk (r : Reg) (m v : Word) (s : State) : (updateBits r m v s).clk = s.clk := by simp [updateBits]
@[simp] theorem updateBits_trace (r : Reg) (m v : Word) (s : State) : (updateBits r m v s).trace = s.trace ++ [.regUpdateBits r m v] := by simp [updateBits]
@[simp] theorem updateBits_env (r : Reg) (m v : Word) (s : State) : (updateBits r m v s).env = (foreignActs s).env := by simp [updateBits]

@[simp] theorem write_params (r : Reg) (v : Word) (s : State) : (write r v s).params = s.params := by simp [write]
@[simp] theorem write_gate (r : Reg) (v : Word) (s : State) : (write r v s).gate = s.gate := by simp [write]
@[simp] theorem write_seq (r : Reg) (v : Word) (s : State) : (write r v s).seq = s.seq := by simp [write]
@[simp] theorem write_latches (r : Reg) (v : Word) (s : State) : (write r v s).latches = s.latches := by simp [write]
@[simp] theorem write_resp (r : Reg) (v : Word) (s : State) : (write r v s).resp = s.resp := by simp [write]
@[simp] theorem write_refused (r : Reg) (v : Word) (s : State) : (write r v s).refused = s.refused := by simp [write]
@[simp] theorem write_clk (r : Reg) (v : Word) (s : State) : (write r v s).clk = s.clk := by simp [write]
@[simp] theorem write_trace (r : Reg) (v : Word) (s : State) : (write r v s).trace = s.trace ++ [.regWrite r v] := by simp [write]
@[simp] theorem write_env (r : Reg) (v : Word) (s : State) : (write r v s).env = (foreignActs s).env := by simp [write]

@[simp] theorem disableUnprepare_params (c : Clk) (s : State) : (disableUnprepare c s).params = s.params := by simp [disableUnprepare]
@[simp] theorem disableUnprepare_gate (c : Clk) (s : State) : (disableUnprepare c s).gate = s.gate := by simp [disableUnprepare]
@[simp] theorem disableUnprepare_seq (c : Clk) (s : State) : (disableUnprepare c s).seq = s.seq := by simp [disableUnprepare]
@[simp] theorem disableUnprepare_latches (c : Clk) (s : State) : (disableUnprepare c s).latches = s.latches := by simp [disableUnprepare]
@[simp] theorem disableUnprepare_resp (c : Clk) (s : State) : (disableUnprepare c s).resp = s.resp := by simp [disableUnprepare]
@[simp] theorem disableUnprepare_fault (c : Clk) (s : State) : (disableUnprepare c s).fault = s.fault := by simp [disableUnprepare]
@[simp] theorem disableUnprepare_refused (c : Clk) (s : State) : (disableUnprepare c s).refused = s.refused := by simp [disableUnprepare]
@[simp] theorem disableUnprepare_clk (c : Clk) (s : State) : (disableUnprepare c s).clk = s.clk.setEn c false := by simp [disableUnprepare]
@[simp] theorem disableUnprepare_regs (c : Clk) (s : State) : (disableUnprepare c s).regs = (foreignActs s).regs := by simp [disableUnprepare]
@[simp] theorem disableUnprepare_trace (c : Clk) (s : State) : (disableUnprepare c s).trace = s.trace ++ [.clkDisableUnprepare c] := by simp [disableUnprepare]
@[simp] theorem disableUnprepare_env (c : Clk) (s : State) : (disableUnprepare c s).env = (foreignActs s).env := by simp [disableUnprepare]

@[simp] theorem prepareEnable_params (c : Clk) (s : State) : (prepareEnable c s).2.params = s.params := by
  have h := drawClk_params (foreignActs s)
  unfold prepareEnable; split <;> simp_all
@[simp] theorem prepareEnable_gate (c : Clk) (s : State) : (prepareEnable c s).2.gate = s.gate := by
  have h := drawClk_gate (foreignActs s)
  unfold prepareEnable; split <;> simp_all
@[simp] theorem prepareEnable_seq (c : Clk) (s : State) : (prepareEnable c s).2.seq = s.seq := by
  have h := drawClk_seq (foreignActs s)
  unfold prepareEnable; split <;> simp_all
@[simp] theorem prepareEnable_latches (c : Clk) (s : State) : (prepareEnable c s).2.latches = s.latches := by
  have h := drawClk_latches (foreignActs s)
  unfold prepareEnable; split <;> simp_all
@[simp] theorem prepareEnable_resp (c : Clk) (s : State) : (prepareEnable c s).2.resp = s.resp := by
  have h := drawClk_resp (foreignActs s)
  unfold prepareEnable; split <;> simp_all
@[simp] theorem prepareEnable_fault (c : Clk) (s : State) : (prepareEnable c s).2.fault = s.fault := by
  have h := drawClk_fault (foreignActs s)
  unfold prepareEnable; split <;> simp_all
@[simp] theorem prepareEnable_refused (c : Clk) (s : State) : (prepareEnable c s).2.refused = s.refused := by
  have h := drawClk_refused (foreignActs s)
  unfold prepareEnable; split <;> simp_all
@[simp] theorem prepareEnable_regs (c : Clk) (s : State) : (prepareEnable c s).2.regs = (foreignActs s).regs := by
  have h := drawClk_regs (foreignActs s)
  unfold prepareEnable; split <;> simp_all

@[simp] theorem setRate_params (hz : Rate) (s : State) : (setRate hz s).2.params = s.params := by
  have h := drawClk_params (foreignActs s)
  unfold setRate; split <;> simp_all
@[simp] theorem setRate_gate (hz : Rate) (s : State) : (setRate hz s).2.gate = s.gate := by
  have h := drawClk_gate (foreignActs s)
  unfold setRate; split <;> simp_all
@[simp] theorem setRate_seq (hz : Rate) (s : State) : (setRate hz s).2.seq = s.seq := by
  have h := drawClk_seq (foreignActs s)
  unfold setRate; split <;> simp_all
@[simp] theorem setRate_latches (hz : Rate) (s : State) : (setRate hz s).2.latches = s.latches := by
  have h := drawClk_latches (foreignActs s)
  unfold setRate; split <;> simp_all
@[simp] theorem setRate_resp (hz : Rate) (s : State) : (setRate hz s).2.resp = s.resp := by
  have h := drawClk_resp (foreignActs s)
  unfold setRate; split <;> simp_all
@[simp] theorem setRate_fault (hz : Rate) (s : State) : (setRate hz s).2.fault = s.fault := by
  have h := drawClk_fault (foreignActs s)
  unfold setRate; split <;> simp_all
@[simp] theorem setRate_refused (hz : Rate) (s : State) : (setRate hz s).2.refused = s.refused := by
  have h := drawClk_refused (foreignActs s)
  unfold setRate; split <;> simp_all
@[simp] theorem setRate_regs (hz : Rate) (s : State) : (setRate hz s).2.regs = (foreignActs s).regs := by
  have h := drawClk_regs (foreignActs s)
  unfold setRate; split <;> simp_all

@[simp] theorem setParent_params (s : State) : (setParent s).2.params = s.params := by
  have h := drawClk_params (foreignActs s)
  unfold setParent; split <;> simp_all
@[simp] theorem setParent_gate (s : State) : (setParent s).2.gate = s.gate := by
  have h := drawClk_gate (foreignActs s)
  unfold setParent; split <;> simp_all
@[simp] theorem setParent_seq (s : State) : (setParent s).2.seq = s.seq := by
  have h := drawClk_seq (foreignActs s)
  unfold setParent; split <;> simp_all
@[simp] theorem setParent_latches (s : State) : (setParent s).2.latches = s.latches := by
  have h := drawClk_latches (foreignActs s)
  unfold setParent; split <;> simp_all
@[simp] theorem setParent_resp (s : State) : (setParent s).2.resp = s.resp := by
  have h := drawClk_resp (foreignActs s)
  unfold setParent; split <;> simp_all
@[simp] theorem setParent_fault (s : State) : (setParent s).2.fault = s.fault := by
  have h := drawClk_fault (foreignActs s)
  unfold setParent; split <;> simp_all
@[simp] theorem setParent_refused (s : State) : (setParent s).2.refused = s.refused := by
  have h := drawClk_refused (foreignActs s)
  unfold setParent; split <;> simp_all
@[simp] theorem setParent_regs (s : State) : (setParent s).2.regs = (foreignActs s).regs := by
  have h := drawClk_regs (foreignActs s)
  unfold setParent; split <;> simp_all

end Sys2Proof.Machine
end

