-- ==== Sys2Proof/Laws/Ops.lean ====
section
/-! SUPPORT. One lemma per shared operation for what it does to the two parts of the registers, to the coming draws
and to the marks; provers cite these instead of unfolding the operations. -/

namespace Sys2Proof.Machine

/-! ### The register block -/

@[simp] theorem get_set_self (b : RegBlock) (r : Reg) (v : Word) : (b.set r v).get r = v := by cases r <;> rfl

theorem get_set_ne (b : RegBlock) {r r' : Reg} (v : Word) (h : r' ≠ r) : (b.set r v).get r' = b.get r' := by
  cases r <;> cases r' <;> first | rfl | exact absurd rfl h

theorem get_set (b : RegBlock) (r r' : Reg) (v : Word) :
    (b.set r v).get r' = if r' = r then v else b.get r' := by
  split
  · subst_vars; exact get_set_self ..
  · exact get_set_ne _ _ ‹_›

/-- A foreign change of a value keeps the engine's bits (R63). -/
theorem foreignValue_own (o old x : Word) : foreignValue o old x &&& o = old &&& o := by
  apply BitVec.eq_of_getLsbD_eq
  intro i hi
  cases h : o[i] <;> simp [foreignValue, h, hi]

/-- The foreign agents keep the engine's bits of every register (R63). -/
theorem foreignFlip_own (p : Params) (x : ForeignFlip) (b : RegBlock) (r : Reg) :
    (b.foreignFlip p x).get r &&& ownMask p r = b.get r &&& ownMask p r := by
  cases r <;> first | rfl | exact foreignValue_own ..

/-! ### The engine's part of the registers -/

theorem own_eq (s : State) (r : Reg) : s.own r = s.regs.get r &&& ownMask s.params r := rfl

theorem own_congr {s t : State} (hp : t.params = s.params) (hr : t.regs = s.regs) : t.own = s.own := by
  funext r; simp [State.own, hp, hr]

@[simp] theorem own_foreignActs (s : State) : (foreignActs s).own = s.own := by
  funext r
  have h := foreignFlip_own s.params (drawForeign s).1 (drawForeign s).2.regs r
  simp only [drawForeign_regs] at h
  simpa [State.own, foreignActs] using h

@[simp] theorem own_emit (t : Transaction) (s : State) : (emit t s).own = s.own := own_congr rfl rfl
@[simp] theorem own_setGate (g : Gate) (s : State) : (setGate g s).own = s.own := own_congr rfl rfl
@[simp] theorem own_raise (e : Resp) (s : State) : (raise e s).own = s.own := own_congr rfl rfl
@[simp] theorem own_complete (s : State) : (complete s).own = s.own := own_congr rfl rfl
@[simp] theorem own_refuseRate (s : State) : (refuseRate s).own = s.own := own_congr rfl rfl
@[simp] theorem own_refuseIllegal (s : State) : (refuseIllegal s).own = s.own := own_congr rfl rfl
@[simp] theorem own_latch (p : Latches) (s : State) : (latch p s).own = s.own := own_congr rfl rfl
@[simp] theorem own_setSeq (q : Seq) (s : State) : (setSeq q s).own = s.own := own_congr rfl rfl
@[simp] theorem own_env (s : State) (e : Env) : State.own { s with env := e } = s.own := own_congr rfl rfl
@[simp] theorem own_clk (s : State) (k : ClkState) : State.own { s with clk := k } = s.own := own_congr rfl rfl

@[simp] theorem own_markUnclocked (r : Reg) (s : State) : (markUnclocked r s).own = s.own :=
  own_congr (markUnclocked_params ..) (markUnclocked_regs ..)

/-- R52 on the engine's bits. -/
theorem own_updateBits (r : Reg) (m v : Word) (s : State) (r' : Reg) :
    (updateBits r m v s).own r' =
      if r' = r then maskedValue (s.own r) m v &&& ownMask s.params r else s.own r' := by
  have h : (updateBits r m v s).own r' =
      ((foreignActs s).regs.set r (maskedValue ((foreignActs s).regs.get r) m v)).get r' &&& ownMask s.params r' := by
    simp [State.own, updateBits]
  rw [h, get_set]
  split
  · subst_vars
    rw [← maskedValue_and, ← foreignActs_params s, ← own_eq, own_foreignActs]
  · rw [← foreignActs_params s, ← own_eq, own_foreignActs]

/-- R53 on the engine's bits. -/
theorem own_write (r : Reg) (v : Word) (s : State) (r' : Reg) :
    (write r v s).own r' = if r' = r then v &&& ownMask s.params r else s.own r' := by
  have h : (write r v s).own r' = ((foreignActs s).regs.set r v).get r' &&& ownMask s.params r' := by
    simp [State.own, write]
  rw [h, get_set]
  split
  · subst_vars; rfl
  · rw [← foreignActs_params s, ← own_eq, own_foreignActs]

@[simp] theorem own_disableUnprepare (c : Clk) (s : State) : (disableUnprepare c s).own = s.own :=
  (own_congr (s := foreignActs s) (by simp) (by simp)).trans (own_foreignActs s)

@[simp] theorem own_prepareEnable (c : Clk) (s : State) : (prepareEnable c s).2.own = s.own :=
  (own_congr (s := foreignActs s) (by simp) (by simp)).trans (own_foreignActs s)

@[simp] theorem own_setRate (hz : Rate) (s : State) : (setRate hz s).2.own = s.own :=
  (own_congr (s := foreignActs s) (by simp) (by simp)).trans (own_foreignActs s)

@[simp] theorem own_setParent (s : State) : (setParent s).2.own = s.own :=
  (own_congr (s := foreignActs s) (by simp) (by simp)).trans (own_foreignActs s)

/-! ### Fields and channel-status registers through the engine's part -/

/-- Every field but a foreign `NON_PCM` (R121) lies in the engine's bits of its register. -/
theorem mask_own (p : Params) (f : Field) (h : f = .nonPcm → nonPcmOwned p = true) :
    p.layout.mask f &&& ~~~(ownMask p f.reg) = 0 := by
  apply BitVec.eq_of_getLsbD_eq
  intro i hi
  cases f <;> simp_all [ownMask, Layout.mask, Field.reg]

/-- A field reads the engine's bits of its register. -/
theorem field_own (s : State) (f : Field) (h : f = .nonPcm → nonPcmOwned s.params = true) :
    s.field f = fieldGet (s.params.layout.mask f) (s.own f.reg) := by
  apply fieldGet_congr
  apply BitVec.eq_of_getLsbD_eq
  intro i hi
  have hm := bits_subset (mask_own s.params f h) hi
  cases hk : (s.params.layout.mask f).getLsbD i <;> simp_all [State.own]

@[simp] theorem own_csL0 (s : State) : s.own .csL0 = s.regs.csL0 := BitVec.and_allOnes
@[simp] theorem own_csR0 (s : State) : s.own .csR0 = s.regs.csR0 := BitVec.and_allOnes
@[simp] theorem own_csL1 (s : State) : s.own .csL1 = s.regs.csL1 := BitVec.and_allOnes
@[simp] theorem own_csR1 (s : State) : s.own .csR1 = s.regs.csR1 := BitVec.and_allOnes

/-! ### The foreign bits -/

/-- The engine's masked update changes no foreign bit when its mask lies in the engine's fields (R52, R63). -/
theorem foreignBits_updateBits {r : Reg} {m : Word} (v : Word) (s : State) (h : m &&& ~~~(ownMask s.params r) = 0)
    (r' : Reg) : (updateBits r m v s).foreignBits r' = (foreignActs s).foreignBits r' := by
  have e : (updateBits r m v s).foreignBits r' =
      ((foreignActs s).regs.set r (maskedValue ((foreignActs s).regs.get r) m v)).get r' &&& ~~~(ownMask s.params r') := by
    simp [State.foreignBits, updateBits]
  rw [e, get_set]
  split
  · subst_vars
    rw [maskedValue_disjoint (by rw [BitVec.and_comm]; exact h)]
    simp [State.foreignBits]
  · simp [State.foreignBits]

/-! ### The coming draws -/

/-- The state of the foreign agents' input after their turn is all that a turn changes of the inputs. -/
@[simp] theorem foreignActs_commands (s : State) : (foreignActs s).env.commands = s.env.commands := by
  simp only [foreignActs, drawForeign]; split <;> rfl

@[simp] theorem foreignActs_clkAnswers (s : State) : (foreignActs s).env.clkAnswers = s.env.clkAnswers := by
  simp only [foreignActs, drawForeign]; split <;> rfl

@[simp] theorem foreignActs_clkDrawn (s : State) : (foreignActs s).env.clkDrawn = s.env.clkDrawn := by
  simp only [foreignActs, drawForeign]; split <;> rfl

@[simp] theorem answer_foreignActs (s : State) : (foreignActs s).answer = s.answer := by
  funext k; simp [State.answer]

/-- A clock call is given the next answer (R62). -/
theorem drawClk_fst (s : State) : (drawClk s).1 = s.answer 0 := by
  unfold drawClk State.answer
  split <;> simp_all

/-- After a clock call the answers have moved up by one. -/
theorem answer_drawClk (s : State) (k : Nat) : (drawClk s).2.answer k = s.answer (k + 1) := by
  unfold drawClk State.answer
  cases h : s.env.clkAnswers with
  | nil => simp [h, Nat.add_assoc, Nat.add_comm 1 k]
  | cons a rest => simp

theorem answer_congr {s t : State} (h : t.env = s.env) : t.answer = s.answer := by
  funext k; simp [State.answer, h]

/-- `prepareEnable` returns the next answer, and on `Ok` enables its clock (R90). -/
theorem prepareEnable_spec (c : Clk) (s : State) :
    (prepareEnable c s).1 = s.answer 0 ∧
      (prepareEnable c s).2.clk = (if s.answer 0 = .ok then s.clk.setEn c true else s.clk) ∧
      (prepareEnable c s).2.trace = s.trace ++ [.clkPrepareEnable c (s.answer 0)] ∧
      (prepareEnable c s).2.env = (drawClk (foreignActs s)).2.env := by
  have h : (drawClk (foreignActs s)).1 = s.answer 0 := by rw [drawClk_fst, answer_foreignActs]
  have h1 := drawClk_clk (foreignActs s)
  have h2 := drawClk_trace (foreignActs s)
  rw [← h]
  unfold prepareEnable
  split <;> rename_i heq <;> simp only [heq] at h h1 h2 ⊢ <;> simp [h1, h2]

/-- `setRate` returns the next answer, and on `Ok` records the rate (R92). -/
theorem setRate_spec (hz : Rate) (s : State) :
    (setRate hz s).1 = s.answer 0 ∧
      (setRate hz s).2.clk = (if s.answer 0 = .ok then { s.clk with rateReqMaster := some hz } else s.clk) ∧
      (setRate hz s).2.trace = s.trace ++ [.clkSetRate .master hz (s.answer 0)] ∧
      (setRate hz s).2.env = (drawClk (foreignActs s)).2.env := by
  have h : (drawClk (foreignActs s)).1 = s.answer 0 := by rw [drawClk_fst, answer_foreignActs]
  have h1 := drawClk_clk (foreignActs s)
  have h2 := drawClk_trace (foreignActs s)
  rw [← h]
  unfold setRate
  split <;> rename_i heq <;> simp only [heq] at h h1 h2 ⊢ <;> simp [h1, h2]

/-- `setParent` returns the next answer, and on `Ok` records the parent (R93). -/
theorem setParent_spec (s : State) :
    (setParent s).1 = s.answer 0 ∧
      (setParent s).2.clk = (if s.answer 0 = .ok then { s.clk with parentMaster := some .masterSelect } else s.clk) ∧
      (setParent s).2.trace = s.trace ++ [.clkSetParent .master .masterSelect (s.answer 0)] ∧
      (setParent s).2.env = (drawClk (foreignActs s)).2.env := by
  have h : (drawClk (foreignActs s)).1 = s.answer 0 := by rw [drawClk_fst, answer_foreignActs]
  have h1 := drawClk_clk (foreignActs s)
  have h2 := drawClk_trace (foreignActs s)
  rw [← h]
  unfold setParent
  split <;> rename_i heq <;> simp only [heq] at h h1 h2 ⊢ <;> simp [h1, h2]

theorem answer_prepareEnable (c : Clk) (s : State) (k : Nat) : (prepareEnable c s).2.answer k = s.answer (k + 1) := by
  rw [answer_congr (prepareEnable_spec c s).2.2.2, answer_drawClk, answer_foreignActs]

theorem answer_setParent (s : State) (k : Nat) : (setParent s).2.answer k = s.answer (k + 1) := by
  rw [answer_congr (setParent_spec s).2.2.2, answer_drawClk, answer_foreignActs]

@[simp] theorem answer_updateBits (r : Reg) (m v : Word) (s : State) : (updateBits r m v s).answer = s.answer := by
  rw [answer_congr (updateBits_env r m v s), answer_foreignActs]

/-! ### The marks -/

/-- With `fast` enabled a register transaction sets no mark (R60). -/
theorem markUnclocked_fast {s : State} (h : s.clk.enFast = true) (r : Reg) : markUnclocked r s = s := by
  simp [markUnclocked, h]

/-- The mark after a register transaction on `r` (R60, R177). -/
theorem markUnclocked_fault (r : Reg) (s : State) :
    (markUnclocked r s).fault =
      if s.clk.enFast then s.fault else some (s.fault.getD (.unclockedRegAccess r)) := by
  unfold markUnclocked
  split
  · rfl
  · split <;> simp_all

theorem updateBits_fault (r : Reg) (m v : Word) (s : State) :
    (updateBits r m v s).fault =
      if s.clk.enFast then s.fault else some (s.fault.getD (.unclockedRegAccess r)) := by
  simp [updateBits, markUnclocked_fault]

theorem write_fault (r : Reg) (v : Word) (s : State) :
    (write r v s).fault =
      if s.clk.enFast then s.fault else some (s.fault.getD (.unclockedRegAccess r)) := by
  simp [write, markUnclocked_fault]

/-! ### The clock flags -/

@[simp] theorem en_setEn_self (k : ClkState) (c : Clk) (b : Bool) : (k.setEn c b).en c = b := by cases c <;> rfl

theorem en_setEn_ne (k : ClkState) {c c' : Clk} (b : Bool) (h : c' ≠ c) : (k.setEn c b).en c' = k.en c' := by
  cases c <;> cases c' <;> first | rfl | exact absurd rfl h

end Sys2Proof.Machine
end

