-- ==== Sys2Proof/Laws/Commands.lean ====
section
/-! SUPPORT. Said once: what a command and a step are made of. A property kept by every transaction, by the writes of
`gate` and by the bookkeeping around them is kept by every command (`exec_keeps`) and by every step (`step_keeps`); a
property that needs a whole micro-operation to come back is handled by the same two theorems through `KeptByOps`. -/

namespace Sys2Proof.Machine

/-- A property of whatever state a step of a command leaves. -/
def Flow.Leaves (P : State → Prop) : Flow → Prop
  | .goOn s => P s
  | .raised s _ => P s

/-- What every step of a command and the bookkeeping keep, the command keeps (R22, R178). -/
theorem runSteps_keeps {P : State → Prop} (hb : ∀ (s : State) (q : Seq) (e : Resp), P s → P { s with seq := q, resp := e })
    (op : Op) (fs : List (State → Flow)) :
    ∀ (k : Nat) (s : State), (∀ f ∈ fs, ∀ s, P s → (f s).Leaves P) → P s → P (runSteps op k fs s) := by
  induction fs with
  | nil => intro k s _ hs; exact hb s .idle .ok hs
  | cons f fs ih =>
    intro k s hf hs
    have h1 := hf f (by simp) _ (hb s (.busy op k) s.resp hs)
    unfold runSteps setSeq
    split
    · rename_i e; rw [e] at h1; exact ih _ _ (fun g hg => hf g (by simp [hg])) h1
    · rename_i e; rw [e] at h1; exact hb _ .idle _ h1

/-- ACQUIRE leaves what an enable of `fast` keeps. -/
theorem acquire_leaves {P : State → Prop} {s : State} (h : P (prepareEnable .fast s).2) : (acquire s).Leaves P := by
  unfold acquire
  split <;> rename_i e <;> rw [e] at h <;> exact h

/-- SELECT_AND_ENABLE leaves what its clock calls and the releases of its cleanup keep. -/
theorem selectAndEnable_leaves {P : State → Prop} (hp : ∀ s, P s → P (setParent s).2)
    (he : ∀ s c, c = .iface ∨ c = .master → P s → P (prepareEnable c s).2)
    (hd : ∀ s c, c = .iface ∨ c = .fast → P s → P (disableUnprepare c s)) {s : State} (hs : P s) :
    (selectAndEnable s).Leaves P := by
  have hc : ∀ s, P s → P (cleanupFast s) := by
    intro s hs
    unfold cleanupFast
    split
    · exact hd _ _ (.inr rfl) hs
    · exact hs
  have h1 := hp s hs
  unfold selectAndEnable
  split <;> rename_i e1 <;> rw [e1] at h1
  · exact hc _ h1
  · have h2 := he _ .iface (.inl rfl) h1
    split <;> rename_i e2 <;> rw [e2] at h2
    · exact hc _ h2
    · have h3 := he _ .master (.inr rfl) h2
      split <;> rename_i e3 <;> rw [e3] at h3
      · exact hc _ (hd _ _ (.inl rfl) h3)
      · exact h3

/-- CFG_CLOCK leaves what its rate request keeps after the divider clear. -/
theorem cfgClock_leaves {P : State → Prop} {s : State}
    (h : P (setRate (masterTarget s.latches.rate) (updateBits .clkctrl (divClearMask s.params.layout) 0 s)).2) :
    (cfgClock s).Leaves P := by
  unfold cfgClock
  split <;> rename_i e <;> rw [e] at h <;> exact h

/-- FMT_CONFIG leaves what its update keeps, and what it found when the width is unsupported. -/
theorem fmtConfig_leaves {P : State → Prop} {s : State}
    (h : ∀ v, fmtVal s.params.layout s.latches.width = some v → P (updateBits .fmtctrl (fmtMask s.params) v s))
    (hs : P s) : (fmtConfig s).Leaves P := by
  unfold fmtConfig
  split
  · rename_i v hv; exact h v hv
  · exact hs

/-- The test of the external encode leaves the state it found. -/
theorem csCheck_leaves {P : State → Prop} {s : State} (hs : P s) : (csCheck s).Leaves P := by
  unfold csCheck; split <;> exact hs

/-- `P` is kept by the micro-operations of the commands and by the bookkeeping of acceptance, responses and refusals. -/
structure KeptByOps (P : State → Prop) : Prop where
  bookkeeping : ∀ (s : State) (q : Seq) (e : Resp) (p : Latches) (b : Bool) (c : List Presented), P s →
    P { s with seq := q, resp := e, latches := p, refused := s.refused || b, env := { s.env with commands := c } }
  acquire : ∀ s, P s → (acquire s).Leaves P
  defensiveHold : ∀ s, P s → P (defensiveHold s)
  selectAndEnable : ∀ s, P s → (selectAndEnable s).Leaves P
  linearSet : ∀ s, P s → P (linearSet s)
  cfgClock : ∀ s, P s → (cfgClock s).Leaves P
  csWrite : ∀ s, P s → P (csWrite s)
  fmtConfig : ∀ s, P s → (fmtConfig s).Leaves P
  gateStart : ∀ s, P s → P (gateStart s)
  gateStop : ∀ s, P s → P (gateStop s)
  release : ∀ s, P s → P (release s)

namespace KeptByOps

variable {P : State → Prop}

theorem flow (h : KeptByOps P) (s : State) (q : Seq) (e : Resp) (hs : P s) : P { s with seq := q, resp := e } := by
  simpa using h.bookkeeping s q e s.latches false s.env.commands hs

theorem refuseRate (h : KeptByOps P) {s : State} (hs : P s) : P (refuseRate s) := by
  simpa [Machine.refuseRate] using h.bookkeeping s .idle s.resp s.latches true s.env.commands hs

theorem refuseIllegal (h : KeptByOps P) {s : State} (hs : P s) : P (refuseIllegal s) := by
  simpa [Machine.refuseIllegal] using h.bookkeeping s s.seq .illegalOp s.latches true s.env.commands hs

theorem setSeq (h : KeptByOps P) {s : State} (q : Seq) (hs : P s) : P (setSeq q s) := h.flow s q s.resp hs

theorem latch (h : KeptByOps P) {s : State} (p : Latches) (hs : P s) : P (latch p s) := by
  simpa [Machine.latch] using h.bookkeeping s s.seq s.resp p false s.env.commands hs

theorem commands (h : KeptByOps P) {s : State} (c : List Presented) (hs : P s) :
    P { s with env := { s.env with commands := c } } := by
  simpa using h.bookkeeping s s.seq s.resp s.latches false c hs

theorem startupFrom (h : KeptByOps P) (k : Nat) {s : State} (hs : P s) : P (startupFrom k s) := by
  refine runSteps_keeps h.flow _ _ _ _ (fun f hf => ?_) hs
  have := List.mem_of_mem_drop hf
  simp only [startupSteps, List.mem_cons, List.not_mem_nil, or_false] at this
  obtain rfl | rfl | rfl | rfl := this
  · exact h.acquire
  · exact h.defensiveHold
  · exact h.selectAndEnable
  · exact h.linearSet

theorem configureFrom (h : KeptByOps P) (k : Nat) {s : State} (hs : P s) : P (configureFrom k s) := by
  unfold Machine.configureFrom
  split
  · exact h.refuseRate hs
  · refine runSteps_keeps h.flow _ _ _ _ (fun f hf => ?_) hs
    have := List.mem_of_mem_drop hf
    simp only [configureSteps, List.mem_cons, List.not_mem_nil, or_false] at this
    obtain rfl | rfl | rfl | rfl := this
    · exact h.cfgClock
    · exact fun s hs => csCheck_leaves hs
    · exact h.csWrite
    · exact h.fmtConfig

theorem triggerFrom (h : KeptByOps P) (cmd : TransportCommand) (k : Nat) {s : State} (hs : P s) :
    P (triggerFrom cmd k s) := by
  refine runSteps_keeps h.flow _ _ _ _ (fun f hf => ?_) hs
  have := List.mem_of_mem_drop hf
  unfold triggerSteps at this
  cases e : cmd.cls <;> simp only [e, List.mem_singleton] at this <;> subst this
  · exact h.gateStart
  · exact h.gateStop
  · exact fun _ hs => hs

theorem shutdownFrom (h : KeptByOps P) (k : Nat) {s : State} (hs : P s) : P (shutdownFrom k s) := by
  refine runSteps_keeps h.flow _ _ _ _ (fun f hf => ?_) hs
  have := List.mem_of_mem_drop hf
  simp only [shutdownSteps, List.mem_singleton] at this
  subst this
  exact h.release

end KeptByOps

/-- Every command keeps what its micro-operations keep. -/
theorem exec_keeps {P : State → Prop} (h : KeptByOps P) {i : Instr} {s t : State} (e : exec i s = .next t) (hs : P s) :
    P t := by
  cases i <;> injection e with e <;> subst e
  case startup => exact h.startupFrom 1 hs
  case configure => exact h.configureFrom 1 (h.setSeq _ (h.latch _ hs))
  case shutdown => exact h.shutdownFrom 1 hs
  all_goals exact h.triggerFrom _ 1 hs

/-- A presentation that is taken leaves everything but the port. -/
theorem nextAction_run {s t : State} {i : Instr} (h : nextAction s = .run i t) :
    ∃ c rest, s.seq = .idle ∧ s.env.commands = c :: rest ∧ decode c.cw c.pb = .ok i ∧
      t = { s with env := { s.env with commands := rest } } := by
  unfold nextAction at h
  cases hq : s.seq <;> cases hc : s.env.commands <;> simp only [hq, hc] at h <;> try contradiction
  rename_i c rest
  cases hd : decode c.cw c.pb <;> simp only [hd] at h <;> try contradiction
  injection h with h1 h2
  subst h1
  exact ⟨c, rest, rfl, rfl, hd, h2.symm⟩

theorem nextAction_illegal {s t : State} (h : nextAction s = .illegal t) :
    ∃ c rest e, s.seq = .idle ∧ s.env.commands = c :: rest ∧ decode c.cw c.pb = .error e ∧
      t = { s with env := { s.env with commands := rest } } := by
  unfold nextAction at h
  cases hq : s.seq <;> cases hc : s.env.commands <;> simp only [hq, hc] at h <;> try contradiction
  rename_i c rest
  cases hd : decode c.cw c.pb <;> simp only [hd] at h <;> try contradiction
  injection h with h1
  exact ⟨c, rest, _, rfl, rfl, hd, h1.symm⟩

/-- Every step keeps what the micro-operations of the commands keep, from the foreign agents' turn on. -/
theorem step_keeps_from {P : State → Prop} (h : KeptByOps P) {s t : State} (e : step s = .next t)
    (hf : P (foreignActs s)) : P t := by
  unfold step at e
  split at e
  · rename_i op k _
    injection e with e
    subst e
    cases op
    · exact h.startupFrom k hf
    · exact h.configureFrom k hf
    · exact h.triggerFrom _ k hf
    · exact h.shutdownFrom k hf
  · injection e with e; subst e; exact hf
  · rename_i i u hu
    obtain ⟨c, rest, _, _, _, rfl⟩ := nextAction_run hu
    exact exec_keeps h e (h.commands _ hf)
  · rename_i u hu
    obtain ⟨c, rest, _, _, _, _, rfl⟩ := nextAction_illegal hu
    injection e with e
    subst e
    exact h.refuseIllegal (h.commands _ hf)

/-- Every step keeps what the micro-operations of the commands and a turn of the foreign agents keep. -/
theorem step_keeps {P : State → Prop} (h : KeptByOps P) (hf : ∀ s, P s → P (foreignActs s)) {s t : State}
    (e : step s = .next t) (hs : P s) : P t :=
  step_keeps_from h e (hf s hs)

/-- `P` is kept by each single transaction the engine issues, by a write of `gate`, and by the bookkeeping. -/
structure KeptByTransactions (P : State → Prop) : Prop where
  bookkeeping : ∀ (s : State) (q : Seq) (e : Resp) (p : Latches) (b : Bool) (c : List Presented), P s →
    P { s with seq := q, resp := e, latches := p, refused := s.refused || b, env := { s.env with commands := c } }
  gate : ∀ g s, P s → P (setGate g s)
  divEnable : ∀ s, P s → P (divEnable s)
  divDisable : ∀ s, P s → P (divDisable s)
  holdSet : ∀ s, P s → P (holdSet s)
  holdClear : ∀ s, P s → P (holdClear s)
  linearSet : ∀ s, P s → P (linearSet s)
  divClear : ∀ s, P s → P (updateBits .clkctrl (divClearMask s.params.layout) 0 s)
  format : ∀ s w v, fmtVal s.params.layout w = some v → P s → P (updateBits .fmtctrl (fmtMask s.params) v s)
  csReg : ∀ s r (w : Half), r = .csL0 ∨ r = .csR0 ∨ r = .csL1 ∨ r = .csR1 → P s → P (write r (w.zeroExtend 32) s)
  enable : ∀ s c, c = .fast ∨ c = .iface ∨ c = .master → P s → P (prepareEnable c s).2
  disable : ∀ s c, c = .iface ∨ c = .master ∨ c = .fast → P s → P (disableUnprepare c s)
  rate : ∀ s hz, P s → P (setRate hz s).2
  parent : ∀ s, P s → P (setParent s).2

/-- What every transaction keeps, every micro-operation keeps. -/
theorem KeptByTransactions.ops {P : State → Prop} (h : KeptByTransactions P) : KeptByOps P where
  bookkeeping := h.bookkeeping
  acquire s hs := acquire_leaves (h.enable s .fast (.inl rfl) hs)
  defensiveHold s hs := h.gate _ _ (h.holdSet _ hs)
  selectAndEnable s hs :=
    selectAndEnable_leaves h.parent (fun s c hc => h.enable s c (.inr hc))
      (fun s c hc => h.disable s c (hc.elim .inl fun h => .inr (.inr h))) hs
  linearSet := h.linearSet
  cfgClock s hs := cfgClock_leaves (h.rate _ _ (h.divClear s hs))
  csWrite s hs :=
    h.csReg _ _ _ (by simp) (h.csReg _ _ _ (by simp) (h.csReg _ _ _ (by simp) (h.csReg _ _ _ (by simp) hs)))
  fmtConfig s hs := fmtConfig_leaves (fun v hv => h.format _ _ _ hv hs) hs
  gateStart s hs := h.gate _ _ (h.holdClear _ (h.divEnable _ hs))
  gateStop s hs := h.gate _ _ (h.divDisable _ (h.holdSet _ hs))
  release s hs :=
    h.disable _ _ (by simp) (h.disable _ _ (by simp) (h.disable _ _ (by simp) hs))

end Sys2Proof.Machine
end

