-- ==== Sys2Proof/Laws/Micro.lean ====
section
/-! SUPPORT. The micro-operations, each with the answers of the clock provider given: what it returns and what it
leaves. Provers cite these instead of unfolding the micro-operations. -/

namespace Sys2Proof.Machine

/-! ### The coming answers -/

@[simp] theorem answer_setSeq (q : Seq) (s : State) : (setSeq q s).answer = s.answer := answer_congr rfl
@[simp] theorem answer_clk (s : State) (k : ClkState) : State.answer { s with clk := k } = s.answer := answer_congr rfl
@[simp] theorem answer_setGate (g : Gate) (s : State) : (setGate g s).answer = s.answer := answer_congr rfl
@[simp] theorem answer_emit (t : Transaction) (s : State) : (emit t s).answer = s.answer := answer_congr rfl
@[simp] theorem answer_latch (p : Latches) (s : State) : (latch p s).answer = s.answer := answer_congr rfl
@[simp] theorem answer_complete (s : State) : (complete s).answer = s.answer := answer_congr rfl
@[simp] theorem answer_raise (e : Resp) (s : State) : (raise e s).answer = s.answer := answer_congr rfl

@[simp] theorem answer_write (r : Reg) (v : Word) (s : State) : (write r v s).answer = s.answer := by
  rw [answer_congr (write_env r v s), answer_foreignActs]

@[simp] theorem answer_disableUnprepare (c : Clk) (s : State) : (disableUnprepare c s).answer = s.answer := by
  rw [answer_congr (disableUnprepare_env c s), answer_foreignActs]

@[simp] theorem answer_prepareEnable_apply (c : Clk) (s : State) (k : Nat) :
    (prepareEnable c s).2.answer k = s.answer (k + 1) := answer_prepareEnable c s k

@[simp] theorem answer_setParent_apply (s : State) (k : Nat) : (setParent s).2.answer k = s.answer (k + 1) :=
  answer_setParent s k

/-! ### What a clock call leaves -/

@[simp] theorem prepareEnable_trace (c : Clk) (s : State) :
    (prepareEnable c s).2.trace = s.trace ++ [.clkPrepareEnable c (s.answer 0)] := (prepareEnable_spec c s).2.2.1

@[simp] theorem setRate_trace (hz : Rate) (s : State) :
    (setRate hz s).2.trace = s.trace ++ [.clkSetRate .master hz (s.answer 0)] := (setRate_spec hz s).2.2.1

@[simp] theorem setParent_trace (s : State) :
    (setParent s).2.trace = s.trace ++ [.clkSetParent .master .masterSelect (s.answer 0)] := (setParent_spec s).2.2.1

theorem prepareEnable_clk_ok {c : Clk} {s : State} (h : s.answer 0 = .ok) :
    (prepareEnable c s).2.clk = s.clk.setEn c true := by simp [(prepareEnable_spec c s).2.1, h]

theorem prepareEnable_clk_err {c : Clk} {s : State} {e : ErrPayload} (h : s.answer 0 = .err e) :
    (prepareEnable c s).2.clk = s.clk := by simp [(prepareEnable_spec c s).2.1, h]

theorem setRate_clk_ok {hz : Rate} {s : State} (h : s.answer 0 = .ok) :
    (setRate hz s).2.clk = { s.clk with rateReqMaster := some hz } := by simp [(setRate_spec hz s).2.1, h]

theorem setRate_clk_err {hz : Rate} {s : State} {e : ErrPayload} (h : s.answer 0 = .err e) :
    (setRate hz s).2.clk = s.clk := by simp [(setRate_spec hz s).2.1, h]

theorem setParent_clk_ok {s : State} (h : s.answer 0 = .ok) :
    (setParent s).2.clk = { s.clk with parentMaster := some .masterSelect } := by simp [(setParent_spec s).2.1, h]

theorem setParent_clk_err {s : State} {e : ErrPayload} (h : s.answer 0 = .err e) :
    (setParent s).2.clk = s.clk := by simp [(setParent_spec s).2.1, h]

theorem prepareEnable_eq {c : Clk} {s : State} {a : ClkResult} (h : s.answer 0 = a) :
    prepareEnable c s = (a, (prepareEnable c s).2) := Prod.ext ((prepareEnable_spec c s).1.trans h) rfl

theorem setRate_eq {hz : Rate} {s : State} {a : ClkResult} (h : s.answer 0 = a) :
    setRate hz s = (a, (setRate hz s).2) := Prod.ext ((setRate_spec hz s).1.trans h) rfl

theorem setParent_eq {s : State} {a : ClkResult} (h : s.answer 0 = a) :
    setParent s = (a, (setParent s).2) := Prod.ext ((setParent_spec s).1.trans h) rfl

@[simp] theorem drawClk_commands (s : State) : (drawClk s).2.env.commands = s.env.commands := by
  unfold drawClk; split <;> rfl

@[simp] theorem prepareEnable_commands (c : Clk) (s : State) : (prepareEnable c s).2.env.commands = s.env.commands := by
  simp [(prepareEnable_spec c s).2.2.2]

@[simp] theorem setRate_commands (hz : Rate) (s : State) : (setRate hz s).2.env.commands = s.env.commands := by
  simp [(setRate_spec hz s).2.2.2]

@[simp] theorem setParent_commands (s : State) : (setParent s).2.env.commands = s.env.commands := by
  simp [(setParent_spec s).2.2.2]

/-! ### The sequencer -/

/-- A step that goes on hands its state to the rest of the command (R22). -/
theorem runSteps_goOn {op : Op} {k : Nat} {f : State → Flow} {fs : List (State → Flow)} {s t : State}
    (h : f (setSeq (.busy op k) s) = .goOn t) : runSteps op k (f :: fs) s = runSteps op (k + 1) fs t := by
  simp [runSteps, h]

/-- A step that cannot fail (R22). -/
theorem runSteps_pure (op : Op) (k : Nat) (g : State → State) (fs : List (State → Flow)) (s : State) :
    runSteps op k ((fun s => .goOn (g s)) :: fs) s = runSteps op (k + 1) fs (g (setSeq (.busy op k) s)) := rfl

@[simp] theorem runSteps_nil (op : Op) (k : Nat) (s : State) : runSteps op k [] s = complete s := rfl

/-- A step that raises ends the command (R178). -/
theorem runSteps_raised {op : Op} {k : Nat} {f : State → Flow} {fs : List (State → Flow)} {s t : State} {e : Resp}
    (h : f (setSeq (.busy op k) s) = .raised t e) : runSteps op k (f :: fs) s = raise e t := by
  simp [runSteps, h]

/-- However a command ends, the engine is idle (R22, R75). -/
@[simp] theorem runSteps_seq (op : Op) (fs : List (State → Flow)) :
    ∀ (k : Nat) (s : State), (runSteps op k fs s).seq = .idle := by
  induction fs with
  | nil => intros; rfl
  | cons f fs ih =>
    intro k s
    unfold runSteps
    split
    · exact ih _ _
    · rfl

/-! ### One-bit updates and fields -/

/-- A field reads the same when the engine's bits of its register are the same. -/
theorem field_congr {s t : State} (hp : t.params = s.params) {f : Field} (hn : f ≠ .nonPcm)
    (ho : t.own f.reg = s.own f.reg) : t.field f = s.field f := by
  rw [field_own t f (fun h => absurd h hn), field_own s f (fun h => absurd h hn), hp, ho]

/-- A one-bit field that is set reads 1 (R52, R55). -/
theorem field_set {s : State} (hw : s.params.layout.wf = true) {f : Field} (hf : oneBit f = true) :
    (updateBits f.reg (s.params.layout.mask f) (s.params.layout.mask f) s).field f = 1 := by
  obtain ⟨lo, hlo, hm⟩ := wf_oneBit hw hf
  have h : (updateBits f.reg (s.params.layout.mask f) (s.params.layout.mask f) s).regs.get f.reg =
      maskedValue ((foreignActs s).regs.get f.reg) (s.params.layout.mask f) (s.params.layout.mask f) := by
    simp [updateBits]
  rw [State.field, updateBits_params, h, hm]
  exact fieldGet_set hlo _

/-- A field that is cleared reads 0 (R52, R55). -/
theorem field_clear (s : State) (f : Field) : (updateBits f.reg (s.params.layout.mask f) 0 s).field f = 0 := by
  have h : (updateBits f.reg (s.params.layout.mask f) 0 s).regs.get f.reg =
      maskedValue ((foreignActs s).regs.get f.reg) (s.params.layout.mask f) 0 := by simp [updateBits]
  rw [State.field, updateBits_params, h]
  exact fieldGet_clear _ _

/-! ### The Clock Sequencer -/

/-- ACQUIRE with its call accepted (R95). -/
theorem acquire_ok {s : State} (h : s.answer 0 = .ok) : acquire s = .goOn (prepareEnable .fast s).2 := by
  unfold acquire
  rw [prepareEnable_eq h]

/-- ACQUIRE with its call refused (R95). -/
theorem acquire_err {s : State} {e : ErrPayload} (h : s.answer 0 = .err e) :
    acquire s = .raised (prepareEnable .fast s).2 (.clockError .acquireFast e) := by
  unfold acquire
  rw [prepareEnable_eq h]

/-- SELECT_AND_ENABLE with its three calls accepted (R96). -/
theorem selectAndEnable_ok {s : State} (h0 : s.answer 0 = .ok) (h1 : s.answer 1 = .ok) (h2 : s.answer 2 = .ok) :
    selectAndEnable s = .goOn (prepareEnable .master (prepareEnable .iface (setParent s).2).2).2 := by
  have e1 : (setParent s).2.answer 0 = .ok := by simpa using h1
  have e2 : (prepareEnable .iface (setParent s).2).2.answer 0 = .ok := by simpa using h2
  unfold selectAndEnable
  rw [setParent_eq h0]
  dsimp only
  rw [prepareEnable_eq e1]
  dsimp only
  rw [prepareEnable_eq e2]

/-- SELECT_AND_ENABLE failing at its step 1 (R96). -/
theorem selectAndEnable_err_parent {s : State} {e : ErrPayload} (h0 : s.answer 0 = .err e) :
    selectAndEnable s = .raised (cleanupFast (setParent s).2) (.clockError .setParent e) := by
  unfold selectAndEnable
  rw [setParent_eq h0]

/-- SELECT_AND_ENABLE failing at its step 3 (R96). -/
theorem selectAndEnable_err_iface {s : State} {e : ErrPayload} (h0 : s.answer 0 = .ok) (h1 : s.answer 1 = .err e) :
    selectAndEnable s =
      .raised (cleanupFast (prepareEnable .iface (setParent s).2).2) (.clockError .enableIface e) := by
  have e1 : (setParent s).2.answer 0 = .err e := by simpa using h1
  unfold selectAndEnable
  rw [setParent_eq h0]
  dsimp only
  rw [prepareEnable_eq e1]

/-- SELECT_AND_ENABLE failing at its step 5 (R96). -/
theorem selectAndEnable_err_master {s : State} {e : ErrPayload} (h0 : s.answer 0 = .ok) (h1 : s.answer 1 = .ok)
    (h2 : s.answer 2 = .err e) :
    selectAndEnable s =
      .raised (cleanupFast (disableUnprepare .iface (prepareEnable .master (prepareEnable .iface (setParent s).2).2).2))
        (.clockError .enableMaster e) := by
  have e1 : (setParent s).2.answer 0 = .ok := by simpa using h1
  have e2 : (prepareEnable .iface (setParent s).2).2.answer 0 = .err e := by simpa using h2
  unfold selectAndEnable
  rw [setParent_eq h0]
  dsimp only
  rw [prepareEnable_eq e1]
  dsimp only
  rw [prepareEnable_eq e2]

@[simp] theorem cleanupFast_params (s : State) : (cleanupFast s).params = s.params := by unfold cleanupFast; split <;> simp
@[simp] theorem cleanupFast_gate (s : State) : (cleanupFast s).gate = s.gate := by unfold cleanupFast; split <;> simp
@[simp] theorem cleanupFast_latches (s : State) : (cleanupFast s).latches = s.latches := by
  unfold cleanupFast; split <;> simp
@[simp] theorem cleanupFast_fault (s : State) : (cleanupFast s).fault = s.fault := by unfold cleanupFast; split <;> simp
@[simp] theorem cleanupFast_refused (s : State) : (cleanupFast s).refused = s.refused := by
  unfold cleanupFast; split <;> simp
@[simp] theorem cleanupFast_own (s : State) : (cleanupFast s).own = s.own := by unfold cleanupFast; split <;> simp
@[simp] theorem cleanupFast_trace (s : State) : (cleanupFast s).trace = s.trace ++ cleanupTrace s.params := by
  unfold cleanupFast cleanupTrace; split <;> simp
@[simp] theorem cleanupFast_clk (s : State) :
    (cleanupFast s).clk = if s.params.conservativeCleanup then s.clk.setEn .fast false else s.clk := by
  unfold cleanupFast; split <;> simp

/-! ### The stages of CONFIGURE -/

/-- CFG_CLOCK with its call accepted (R156). -/
theorem cfgClock_ok {s : State} (h : s.answer 0 = .ok) :
    cfgClock s =
      .goOn (setRate (masterTarget s.latches.rate) (updateBits .clkctrl (divClearMask s.params.layout) 0 s)).2 := by
  have e : (updateBits .clkctrl (divClearMask s.params.layout) 0 s).answer 0 = .ok := by simpa using h
  unfold cfgClock
  rw [setRate_eq e]

/-- CFG_CLOCK with its call refused (R156). -/
theorem cfgClock_err {s : State} {e : ErrPayload} (h : s.answer 0 = .err e) :
    cfgClock s =
      .raised (setRate (masterTarget s.latches.rate) (updateBits .clkctrl (divClearMask s.params.layout) 0 s)).2
        (.clockError .setRate e) := by
  have e' : (updateBits .clkctrl (divClearMask s.params.layout) 0 s).answer 0 = .err e := by simpa using h
  unfold cfgClock
  rw [setRate_eq e']

/-- The bits of a packed half-word (R111). -/
theorem pack16_bit (a b : Byte) (i : Nat) (hi : i < 16) :
    (pack16 a b).getLsbD i = if i < 8 then b.getLsbD i else a.getLsbD (i - 8) := by
  unfold pack16
  by_cases h : i < 8
  · simp [h, hi]
  · have : b.getLsbD i = false := BitVec.getLsbD_of_ge _ _ (by omega)
    simp [h, hi, this]

/-- A packed half-word in a register (R34, R58, R111). -/
theorem pack16_zext (a b : Byte) : (pack16 a b).zeroExtend 32 = csRegValue a b := by
  apply BitVec.eq_of_getLsbD_eq
  intro i hi
  have h1 := BitVec.getLsbD_append (x := 0#16 ++ a) (y := b) (i := i)
  have h2 := BitVec.getLsbD_append (x := 0#16) (y := a) (i := i - 8)
  rw [csRegValue, h1, h2]
  by_cases a' : i < 16
  · simp only [BitVec.truncate_eq_setWidth, BitVec.getLsbD_setWidth, pack16_bit a b i a', hi, decide_true, Bool.true_and]
    by_cases h : i < 8
    · simp [h]
    · simp [h, show i - 8 < 8 by omega]
  · have : (pack16 a b).getLsbD i = false := BitVec.getLsbD_of_ge _ _ (by omega)
    simp [this, show ¬ i < 8 by omega, show ¬ i - 8 < 8 by omega]

/-- The test of the external encode (R114). -/
theorem csCheck_ok {s : State} (h : s.latches.csOk = true) : csCheck s = .goOn s := by simp [csCheck, h]

theorem csCheck_err {s : State} (h : s.latches.csOk = false) : csCheck s = .raised s .formatError := by
  simp [csCheck, h]

@[simp] theorem csWrite_params (s : State) : (csWrite s).params = s.params := by simp [csWrite]
@[simp] theorem csWrite_gate (s : State) : (csWrite s).gate = s.gate := by simp [csWrite]
@[simp] theorem csWrite_latches (s : State) : (csWrite s).latches = s.latches := by simp [csWrite]
@[simp] theorem csWrite_refused (s : State) : (csWrite s).refused = s.refused := by simp [csWrite]
@[simp] theorem csWrite_clk (s : State) : (csWrite s).clk = s.clk := by simp [csWrite]
@[simp] theorem csWrite_answer (s : State) : (csWrite s).answer = s.answer := by simp [csWrite]
@[simp] theorem csWrite_commands (s : State) : (csWrite s).env.commands = s.env.commands := by simp [csWrite]
@[simp] theorem csWrite_trace (s : State) :
    (csWrite s).trace = s.trace ++
      [.regWrite .csL0 ((csWord0 s.latches.cs).zeroExtend 32), .regWrite .csR0 ((csWord0 s.latches.cs).zeroExtend 32),
       .regWrite .csL1 ((csWord1 s.latches.cs).zeroExtend 32), .regWrite .csR1 ((csWord1 s.latches.cs).zeroExtend 32)] := by
  simp [csWrite]

theorem csWrite_fault {s : State} (h : s.clk.enFast = true) : (csWrite s).fault = s.fault := by
  simp [csWrite, write_fault, h]

/-- CS_WRITE on the registers (R112). -/
theorem own_csWrite (s : State) (r : Reg) :
    (csWrite s).own r =
      if r = .csL0 ∨ r = .csR0 then (csWord0 s.latches.cs).zeroExtend 32
      else if r = .csL1 ∨ r = .csR1 then (csWord1 s.latches.cs).zeroExtend 32
      else s.own r := by
  unfold csWrite
  rw [own_write, own_write, own_write, own_write]
  have h : ∀ w : Word, w &&& BitVec.allOnes 32 = w := fun w => BitVec.and_allOnes
  cases r <;> simp [ownMask, h, -BitVec.reduceAllOnes]

/-- FMT_CONFIG with a supported width (R122). -/
theorem fmtConfig_some {s : State} {v : Word} (h : fmtVal s.params.layout s.latches.width = some v) :
    fmtConfig s = .goOn (updateBits .fmtctrl (fmtMask s.params) v s) := by simp [fmtConfig, h]

/-- FMT_CONFIG with an unsupported width (R123). -/
theorem fmtConfig_none {s : State} (h : fmtVal s.params.layout s.latches.width = none) :
    fmtConfig s = .raised s .unsupportedFormatError := by simp [fmtConfig, h]

/-- Either the three widths of R120, or none of them and no format value. -/
theorem fmtVal_cases (L : Layout) (w : Byte) :
    (w = 16 ∧ fmtVal L w = some (L.mode16 ||| fieldPut L.align16 2 ||| L.ufs ||| L.flr)) ∨
    ((w = 24 ∨ w = 32) ∧ fmtVal L w = some (L.mode32 ||| L.ufs ||| L.flr)) ∨
    (w ≠ 16 ∧ w ≠ 24 ∧ w ≠ 32 ∧ fmtVal L w = none) := by
  unfold fmtVal
  by_cases h1 : w = 16
  · simp [h1]
  · by_cases h2 : w = 24
    · simp [h2]
    · by_cases h3 : w = 32
      · simp [h3]
      · exact .inr (.inr ⟨h1, h2, h3, by rw [if_neg h1, if_neg h2, if_neg h3]⟩)

/-- The fields of a format value (R35, R120). -/
theorem fmtVal_fields {L : Layout} (h : L.wf = true) {w : Byte} {v : Word} (hv : fmtVal L w = some v) :
    ((w = 16 ∧ fieldGet L.mode16 v = 1 ∧ fieldGet L.mode32 v = 0 ∧ fieldGet L.align16 v = 2) ∨
      ((w = 24 ∨ w = 32) ∧ fieldGet L.mode16 v = 0 ∧ fieldGet L.mode32 v = 1)) ∧
      fieldGet L.ufs v = 1 ∧ fieldGet L.flr v = 1 := by
  have o : ∀ f g : Field, f ≠ g → f.reg = g.reg → fieldGet (L.mask f) (L.mask g) = 0#32 := fun f g hne hr =>
    fieldGet_other h hne hr
  have p : ∀ f : Field, f ≠ .align16 → f.reg = .fmtctrl → fieldGet (L.mask f) (fieldPut L.align16 2#32) = 0#32 :=
    fun f hne hr => fieldGet_otherPut h (g := .align16) hne hr 2
  have s : ∀ f : Field, oneBit f = true → fieldGet (L.mask f) (L.mask f) = 1#32 := fun f hf => fieldGet_self h hf
  have a : fieldGet L.align16 (fieldPut L.align16 2#32) = 2#32 := fieldGet_align16 h
  rcases fmtVal_cases L w with ⟨rfl, e⟩ | ⟨hw, e⟩ | ⟨_, _, _, e⟩ <;> rw [e] at hv <;> cases hv
  · refine ⟨.inl ⟨rfl, ?_, ?_, ?_⟩, ?_, ?_⟩ <;> simp only [fieldGet_or]
    · have := s .mode16 rfl; have := p .mode16 (by decide) rfl; have := o .mode16 .ufs (by decide) rfl
      have := o .mode16 .flr (by decide) rfl; simp_all [Layout.mask]
    · have := o .mode32 .mode16 (by decide) rfl; have := p .mode32 (by decide) rfl
      have := o .mode32 .ufs (by decide) rfl; have := o .mode32 .flr (by decide) rfl; simp_all [Layout.mask]
    · have := o .align16 .mode16 (by decide) rfl; have := o .align16 .ufs (by decide) rfl
      have := o .align16 .flr (by decide) rfl; simp_all [Layout.mask]
    · have := o .ufs .mode16 (by decide) rfl; have := p .ufs (by decide) rfl; have := s .ufs rfl
      have := o .ufs .flr (by decide) rfl; simp_all [Layout.mask]
    · have := o .flr .mode16 (by decide) rfl; have := p .flr (by decide) rfl; have := s .flr rfl
      have := o .flr .ufs (by decide) rfl; simp_all [Layout.mask]
  · refine ⟨.inr ⟨hw, ?_, ?_⟩, ?_, ?_⟩ <;> simp only [fieldGet_or]
    · have := o .mode16 .mode32 (by decide) rfl; have := o .mode16 .ufs (by decide) rfl
      have := o .mode16 .flr (by decide) rfl; simp_all [Layout.mask]
    · have := s .mode32 rfl; have := o .mode32 .ufs (by decide) rfl
      have := o .mode32 .flr (by decide) rfl; simp_all [Layout.mask]
    · have := o .ufs .mode32 (by decide) rfl; have := s .ufs rfl
      have := o .ufs .flr (by decide) rfl; simp_all [Layout.mask]
    · have := o .flr .mode32 (by decide) rfl; have := s .flr rfl
      have := o .flr .ufs (by decide) rfl; simp_all [Layout.mask]

/-- A format value lies inside the format mask (R120, R121). -/
theorem fmtVal_masked {p : Params} {w : Byte} {v : Word} (hv : fmtVal p.layout w = some v) :
    v &&& ~~~(fmtMask p) = 0 := by
  apply BitVec.eq_of_getLsbD_eq
  intro i hi
  have e : (fieldPut p.layout.align16 2).getLsbD i = true → p.layout.align16.getLsbD i = true := by
    unfold fieldPut; simp
  rcases fmtVal_cases p.layout w with ⟨_, h⟩ | ⟨_, h⟩ | ⟨_, _, _, h⟩ <;> rw [h] at hv <;> cases hv <;>
    simp only [fmtMask, BitVec.getLsbD_and, BitVec.getLsbD_or, BitVec.getLsbD_not, hi] <;>
    cases h1 : p.layout.mode16.getLsbD i <;> cases h2 : p.layout.align16.getLsbD i <;>
    cases h3 : p.layout.mode32.getLsbD i <;> cases h4 : p.layout.ufs.getLsbD i <;>
    cases h5 : p.layout.flr.getLsbD i <;> simp_all

/-- The masked bits of `FMTCTRL` after FMT_CONFIG are the format value (R122). -/
theorem maskedValue_fmt {p : Params} {w : Byte} {v : Word} (hv : fmtVal p.layout w = some v) (old : Word) :
    maskedValue old (fmtMask p) v &&& fmtMask p = v := by
  rw [maskedValue_subset (by simp)]
  apply BitVec.eq_of_getLsbD_eq
  intro i hi
  have hb := fun h => bits_subset (fmtVal_masked hv) hi h
  cases h : v.getLsbD i <;> simp_all

end Sys2Proof.Machine
end

