-- ==== Sys2Proof/Laws/Commute.lean ====
section
/-! SUPPORT. No transaction reads the latches, the gate or the sequencer position: each one commutes with a write of
them (R22, R23, R37). -/

namespace Sys2Proof.Machine

theorem foreignActs_latch (p : Latches) (s : State) : foreignActs (latch p s) = latch p (foreignActs s) := by
  simp only [foreignActs, drawForeign, latch]; split <;> rfl

theorem foreignActs_setGate (g : Gate) (s : State) : foreignActs (setGate g s) = setGate g (foreignActs s) := by
  simp only [foreignActs, drawForeign, setGate]; split <;> rfl

theorem foreignActs_setSeq (q : Seq) (s : State) : foreignActs (setSeq q s) = setSeq q (foreignActs s) := by
  simp only [foreignActs, drawForeign, setSeq]; split <;> rfl

theorem drawClk_latch (p : Latches) (s : State) : drawClk (latch p s) = ((drawClk s).1, latch p (drawClk s).2) := by
  simp only [drawClk, latch]; split <;> rfl

theorem drawClk_setGate (g : Gate) (s : State) : drawClk (setGate g s) = ((drawClk s).1, setGate g (drawClk s).2) := by
  simp only [drawClk, setGate]; split <;> rfl

theorem markUnclocked_latch (r : Reg) (p : Latches) (s : State) :
    markUnclocked r (latch p s) = latch p (markUnclocked r s) := by
  unfold markUnclocked latch
  cases s.clk.enFast <;> cases h' : s.fault <;> simp [h']

theorem markUnclocked_setGate (r : Reg) (g : Gate) (s : State) :
    markUnclocked r (setGate g s) = setGate g (markUnclocked r s) := by
  unfold markUnclocked setGate
  cases s.clk.enFast <;> cases h' : s.fault <;> simp [h']

theorem updateBits_latch (r : Reg) (m v : Word) (p : Latches) (s : State) :
    updateBits r m v (latch p s) = latch p (updateBits r m v s) := by
  simp only [updateBits, foreignActs_latch, markUnclocked_latch]; rfl

theorem updateBits_setGate (r : Reg) (m v : Word) (g : Gate) (s : State) :
    updateBits r m v (setGate g s) = setGate g (updateBits r m v s) := by
  simp only [updateBits, foreignActs_setGate, markUnclocked_setGate]; rfl

theorem write_latch (r : Reg) (v : Word) (p : Latches) (s : State) : write r v (latch p s) = latch p (write r v s) := by
  simp only [write, foreignActs_latch, markUnclocked_latch]; rfl

theorem write_setGate (r : Reg) (v : Word) (g : Gate) (s : State) :
    write r v (setGate g s) = setGate g (write r v s) := by
  simp only [write, foreignActs_setGate, markUnclocked_setGate]; rfl

theorem disableUnprepare_latch (c : Clk) (p : Latches) (s : State) :
    disableUnprepare c (latch p s) = latch p (disableUnprepare c s) := by
  simp only [disableUnprepare, foreignActs_latch]; rfl

theorem disableUnprepare_setGate (c : Clk) (g : Gate) (s : State) :
    disableUnprepare c (setGate g s) = setGate g (disableUnprepare c s) := by
  simp only [disableUnprepare, foreignActs_setGate]; rfl

theorem prepareEnable_latch (c : Clk) (p : Latches) (s : State) :
    prepareEnable c (latch p s) = ((prepareEnable c s).1, latch p (prepareEnable c s).2) := by
  simp only [prepareEnable, foreignActs_latch, drawClk_latch]
  rcases drawClk (foreignActs s) with ⟨_ | e, t⟩ <;> rfl

theorem prepareEnable_setGate (c : Clk) (g : Gate) (s : State) :
    prepareEnable c (setGate g s) = ((prepareEnable c s).1, setGate g (prepareEnable c s).2) := by
  simp only [prepareEnable, foreignActs_setGate, drawClk_setGate]
  rcases drawClk (foreignActs s) with ⟨_ | e, t⟩ <;> rfl

theorem setRate_latch (hz : Rate) (p : Latches) (s : State) :
    setRate hz (latch p s) = ((setRate hz s).1, latch p (setRate hz s).2) := by
  simp only [setRate, foreignActs_latch, drawClk_latch]
  rcases drawClk (foreignActs s) with ⟨_ | e, t⟩ <;> rfl

theorem setRate_setGate (hz : Rate) (g : Gate) (s : State) :
    setRate hz (setGate g s) = ((setRate hz s).1, setGate g (setRate hz s).2) := by
  simp only [setRate, foreignActs_setGate, drawClk_setGate]
  rcases drawClk (foreignActs s) with ⟨_ | e, t⟩ <;> rfl

theorem setParent_latch (p : Latches) (s : State) :
    setParent (latch p s) = ((setParent s).1, latch p (setParent s).2) := by
  simp only [setParent, foreignActs_latch, drawClk_latch]
  rcases drawClk (foreignActs s) with ⟨_ | e, t⟩ <;> rfl

theorem setParent_setGate (g : Gate) (s : State) :
    setParent (setGate g s) = ((setParent s).1, setGate g (setParent s).2) := by
  simp only [setParent, foreignActs_setGate, drawClk_setGate]
  rcases drawClk (foreignActs s) with ⟨_ | e, t⟩ <;> rfl

/-! ### The sequencer position: no transaction reads it -/

theorem drawClk_setSeq (q : Seq) (s : State) : drawClk (setSeq q s) = ((drawClk s).1, setSeq q (drawClk s).2) := by
  simp only [drawClk, setSeq]; split <;> rfl

theorem markUnclocked_setSeq (r : Reg) (q : Seq) (s : State) :
    markUnclocked r (setSeq q s) = setSeq q (markUnclocked r s) := by
  unfold markUnclocked setSeq
  cases s.clk.enFast <;> cases h' : s.fault <;> simp [h']

theorem updateBits_setSeq (r : Reg) (m v : Word) (q : Seq) (s : State) :
    updateBits r m v (setSeq q s) = setSeq q (updateBits r m v s) := by
  simp only [updateBits, foreignActs_setSeq, markUnclocked_setSeq]; rfl

theorem write_setSeq (r : Reg) (v : Word) (q : Seq) (s : State) :
    write r v (setSeq q s) = setSeq q (write r v s) := by
  simp only [write, foreignActs_setSeq, markUnclocked_setSeq]; rfl

theorem disableUnprepare_setSeq (c : Clk) (q : Seq) (s : State) :
    disableUnprepare c (setSeq q s) = setSeq q (disableUnprepare c s) := by
  simp only [disableUnprepare, foreignActs_setSeq]; rfl

theorem prepareEnable_setSeq (c : Clk) (q : Seq) (s : State) :
    prepareEnable c (setSeq q s) = ((prepareEnable c s).1, setSeq q (prepareEnable c s).2) := by
  simp only [prepareEnable, foreignActs_setSeq, drawClk_setSeq]
  rcases drawClk (foreignActs s) with ⟨_ | e, t⟩ <;> rfl

theorem setRate_setSeq (hz : Rate) (q : Seq) (s : State) :
    setRate hz (setSeq q s) = ((setRate hz s).1, setSeq q (setRate hz s).2) := by
  simp only [setRate, foreignActs_setSeq, drawClk_setSeq]
  rcases drawClk (foreignActs s) with ⟨_ | e, t⟩ <;> rfl

theorem setParent_setSeq (q : Seq) (s : State) :
    setParent (setSeq q s) = ((setParent s).1, setSeq q (setParent s).2) := by
  simp only [setParent, foreignActs_setSeq, drawClk_setSeq]
  rcases drawClk (foreignActs s) with ⟨_ | e, t⟩ <;> rfl

@[simp] theorem complete_setSeq (q : Seq) (s : State) : complete (setSeq q s) = complete s := rfl
@[simp] theorem raise_setSeq (e : Resp) (q : Seq) (s : State) : raise e (setSeq q s) = raise e s := rfl

end Sys2Proof.Machine
end

