-- ==== Sys2Proof/Laws/Decode.lean ====
section
/-! SUPPORT. The fields of a command word and of the channel-status port, put together and taken apart (R71, R74). -/

namespace Sys2Proof

/-- The bits of a command word, field by field (R71). -/
theorem mkCw_bit (o : BitVec 4) (r : BitVec 20) (a : Byte) (i : Nat) :
    (mkCw o r a).getLsbD i =
      if i < 8 then a.getLsbD i else if i < 28 then r.getLsbD (i - 8) else o.getLsbD (i - 28) := by
  have h1 := BitVec.getLsbD_append (x := o ++ r) (y := a) (i := i)
  have h2 := BitVec.getLsbD_append (x := o) (y := r) (i := i - 8)
  refine h1.trans ?_
  by_cases h : i < 8
  · simp [h]
  · by_cases h' : i < 28
    · simp [h, h', h2, show i - 8 < 20 by omega]
    · simp [h, h', h2, show ¬ i - 8 < 20 by omega, show i - 8 - 20 = i - 28 by omega]

@[simp] theorem cwOpc_mkCw (o : BitVec 4) (r : BitVec 20) (a : Byte) : cwOpc (mkCw o r a) = o := by
  apply BitVec.eq_of_getLsbD_eq
  intro i hi
  simp only [cwOpc, BitVec.getLsbD_extractLsb', mkCw_bit]
  simp [hi, show ¬ 28 + i < 8 by omega]

@[simp] theorem cwRsv_mkCw (o : BitVec 4) (r : BitVec 20) (a : Byte) : cwRsv (mkCw o r a) = r := by
  apply BitVec.eq_of_getLsbD_eq
  intro i hi
  simp only [cwRsv, BitVec.getLsbD_extractLsb', mkCw_bit]
  simp [hi, show 8 + i < 28 by omega]

@[simp] theorem cwArg_mkCw (o : BitVec 4) (r : BitVec 20) (a : Byte) : cwArg (mkCw o r a) = a := by
  apply BitVec.eq_of_getLsbD_eq
  intro i hi
  simp only [cwArg, BitVec.getLsbD_extractLsb', mkCw_bit]
  simp [hi]

/-- A command word is its three fields (R71). -/
theorem mkCw_fields (w : Word) : mkCw (cwOpc w) (cwRsv w) (cwArg w) = w := by
  apply BitVec.eq_of_getLsbD_eq
  intro i hi
  simp only [mkCw_bit, cwOpc, cwRsv, cwArg, BitVec.getLsbD_extractLsb']
  by_cases h : i < 8
  · simp [h]
  · by_cases h' : i < 28
    · simp [h, h', show i - 8 < 20 by omega, show 8 + (i - 8) = i by omega]
    · simp [h, h', show i - 28 < 4 by omega, show 28 + (i - 28) = i by omega]

/-- The bits of the channel-status port, byte by byte (R74). -/
theorem portOfCs_bit (cs : CsBytes) (i : Nat) :
    (portOfCs cs).getLsbD i =
      if i < 8 then cs.b0.getLsbD i
      else if i < 16 then cs.b1.getLsbD (i - 8)
      else if i < 24 then cs.b2.getLsbD (i - 16)
      else cs.b3.getLsbD (i - 24) := by
  have h1 := BitVec.getLsbD_append (x := cs.b3 ++ cs.b2 ++ cs.b1) (y := cs.b0) (i := i)
  have h2 := BitVec.getLsbD_append (x := cs.b3 ++ cs.b2) (y := cs.b1) (i := i - 8)
  have h3 := BitVec.getLsbD_append (x := cs.b3) (y := cs.b2) (i := i - 16)
  refine h1.trans ?_
  by_cases a : i < 8
  · simp [a]
  · by_cases b : i < 16
    · simp [a, b, h2, show i - 8 < 8 by omega]
    · rw [show i - 8 - 8 = i - 16 by omega] at h2
      by_cases c : i < 24
      · simp [a, b, c, h2, h3, show ¬ i - 8 < 8 by omega, show i - 16 < 8 by omega]
      · simp [a, b, c, h2, h3, show ¬ i - 8 < 8 by omega, show ¬ i - 16 < 8 by omega,
          show i - 16 - 8 = i - 24 by omega]

/-- The four bytes put on the port come off it (R74). -/
@[simp] theorem csOfPort_portOfCs (cs : CsBytes) : csOfPort (portOfCs cs) = cs := by
  obtain ⟨b0, b1, b2, b3⟩ := cs
  simp only [csOfPort, CsBytes.mk.injEq]
  refine ⟨?_, ?_, ?_, ?_⟩ <;> apply BitVec.eq_of_getLsbD_eq <;> intro i hi <;>
    simp only [BitVec.getLsbD_extractLsb', portOfCs_bit]
  · simp [hi]
  · simp [hi, show 8 + i < 16 by omega]
  · simp [hi, show ¬ 16 + i < 8 by omega, show 16 + i < 24 by omega]
  · simp [hi, show ¬ 24 + i < 8 by omega, show ¬ 24 + i < 16 by omega]

/-- The port is its four bytes (R74). -/
@[simp] theorem portOfCs_csOfPort (v : Word) : portOfCs (csOfPort v) = v := by
  apply BitVec.eq_of_getLsbD_eq
  intro i hi
  simp only [portOfCs_bit, csOfPort, BitVec.getLsbD_extractLsb']
  by_cases a : i < 8
  · simp [a]
  · by_cases b : i < 16
    · simp [a, b, show i - 8 < 8 by omega, show 8 + (i - 8) = i by omega]
    · by_cases c : i < 24
      · simp [a, b, c, show i - 16 < 8 by omega, show 16 + (i - 16) = i by omega]
      · simp [a, b, c, show i - 24 < 8 by omega, show 24 + (i - 24) = i by omega]

/-- A command word is decided by its three fields. -/
theorem cw_eq_mkCw {w : Word} {o : BitVec 4} {r : BitVec 20} {a : Byte} (ho : cwOpc w = o) (hr : cwRsv w = r)
    (ha : cwArg w = a) : w = mkCw o r a := by
  rw [← mkCw_fields w, ho, hr, ha]

end Sys2Proof
end

