-- ==== Sys2Proof/Laws/Foreign.lean ====
section
/-! SUPPORT. The foreign agents take one turn before every transaction, and the engine changes none of their bits: so
the foreign bits after a command are those of as many turns as the trace gained transactions (R54, R63). -/

namespace Sys2Proof.Machine

/-- Two states that the foreign agents cannot tell apart. -/
structure SameForeign (s t : State) : Prop where
  params : t.params = s.params
  bits : ∀ r, t.foreignBits r = s.foreignBits r
  flips : t.env.foreignFlips = s.env.foreignFlips
  drawn : t.env.foreignDrawn = s.env.foreignDrawn

theorem SameForeign.refl (s : State) : SameForeign s s := ⟨rfl, fun _ => rfl, rfl, rfl⟩

theorem SameForeign.trans {s t u : State} (h : SameForeign s t) (h' : SameForeign t u) : SameForeign s u :=
  ⟨h'.1.trans h.1, fun r => (h'.2 r).trans (h.2 r), h'.3.trans h.3, h'.4.trans h.4⟩

/-- The foreign bits of a value after a foreign change depend on its foreign bits alone. -/
theorem foreignValue_foreign {o v w x : Word} (h : v &&& ~~~o = w &&& ~~~o) :
    foreignValue o v x &&& ~~~o = foreignValue o w x &&& ~~~o := by
  apply BitVec.eq_of_getLsbD_eq
  intro i hi
  have hi' := congrArg (fun u : Word => u.getLsbD i) h
  simp only [BitVec.getLsbD_and, BitVec.getLsbD_not, hi, decide_true, Bool.true_and] at hi'
  cases ho : o.getLsbD i <;> simp_all [foreignValue]

/-- A turn of the foreign agents does the same to two states they cannot tell apart. -/
theorem SameForeign.foreignActs {s t : State} (h : SameForeign s t) :
    SameForeign (foreignActs s) (foreignActs t) := by
  obtain ⟨hp, hb, hf, hd⟩ := h
  have hx : (drawForeign t).1 = (drawForeign s).1 := by
    unfold drawForeign; rw [hf, hd]; split <;> rfl
  refine ⟨by simpa using hp, fun r => ?_, ?_, ?_⟩
  · have hr := hb r
    cases r <;>
      simp only [State.foreignBits, Machine.foreignActs, drawForeign_regs, drawForeign_params, hx, hp, RegBlock.get,
        RegBlock.foreignFlip] at hr ⊢
    case csL0 => exact hr
    case csR0 => exact hr
    case csL1 => exact hr
    case csR1 => exact hr
    all_goals exact foreignValue_foreign hr
  · simp only [Machine.foreignActs, drawForeign, hf]; split <;> simp_all
  · simp only [Machine.foreignActs, drawForeign, hf]; split <;> simp_all

/-- Turns count from either end. -/
theorem foreignTurns_succ (n : Nat) : ∀ s : State, foreignTurns (n + 1) s = foreignActs (foreignTurns n s) := by
  induction n with
  | zero => intro s; rfl
  | succ n ih => intro s; exact ih (foreignActs s)

/-- The state is, to the foreign agents, the one after as many turns from `s` as the trace gained transactions. -/
def AfterTurns (s t : State) : Prop :=
  ∃ n, t.trace.length = s.trace.length + n ∧ SameForeign (foreignTurns n s) t

theorem AfterTurns.refl (s : State) : AfterTurns s s := ⟨0, rfl, .refl s⟩

/-- One transaction that changes no foreign bit. -/
theorem AfterTurns.next {s t u : State} (h : AfterTurns s t) (hl : u.trace.length = t.trace.length + 1)
    (hu : SameForeign (foreignActs t) u) : AfterTurns s u := by
  obtain ⟨n, hn, hs⟩ := h
  refine ⟨n + 1, by omega, ?_⟩
  rw [foreignTurns_succ]
  exact hs.foreignActs.trans hu

/-- Bookkeeping. -/
theorem AfterTurns.same {s t u : State} (h : AfterTurns s t) (hl : u.trace = t.trace) (hu : SameForeign t u) :
    AfterTurns s u := by
  obtain ⟨n, hn, hs⟩ := h
  exact ⟨n, by rw [hl, hn], hs.trans hu⟩

theorem sameForeign_updateBits {r : Reg} {m : Word} (v : Word) (s : State) (h : m &&& ~~~(ownMask s.params r) = 0) :
    SameForeign (foreignActs s) (updateBits r m v s) :=
  ⟨by simp, foreignBits_updateBits v s h, by simp, by simp⟩

theorem sameForeign_write {r : Reg} (v : Word) (s : State) (h : r = .csL0 ∨ r = .csR0 ∨ r = .csL1 ∨ r = .csR1) :
    SameForeign (foreignActs s) (write r v s) := by
  refine ⟨by simp, fun r' => ?_, by simp, by simp⟩
  have e : (write r v s).foreignBits r' = ((foreignActs s).regs.set r v).get r' &&& ~~~(ownMask s.params r') := by
    simp [State.foreignBits, write]
  rw [e, get_set]
  split
  · subst_vars
    rcases h with rfl | rfl | rfl | rfl <;> simp [State.foreignBits, ownMask]
  · simp [State.foreignBits]

theorem sameForeign_drawClk (s : State) : SameForeign s (drawClk s).2 := by
  refine ⟨by simp, fun r => by simp [State.foreignBits], ?_, ?_⟩ <;> unfold drawClk <;> split <;> rfl

theorem sameForeign_of_env {s t u : State} (hs : SameForeign s t) (hp : u.params = t.params) (hr : u.regs = t.regs)
    (he : u.env = t.env) : SameForeign s u :=
  hs.trans ⟨hp, fun r => by simp [State.foreignBits, hp, hr], by rw [he], by rw [he]⟩

theorem sameForeign_prepareEnable (c : Clk) (s : State) : SameForeign (foreignActs s) (prepareEnable c s).2 :=
  sameForeign_of_env (sameForeign_drawClk _) (by simp) (by simp) (prepareEnable_spec c s).2.2.2

theorem sameForeign_setRate (hz : Rate) (s : State) : SameForeign (foreignActs s) (setRate hz s).2 :=
  sameForeign_of_env (sameForeign_drawClk _) (by simp) (by simp) (setRate_spec hz s).2.2.2

theorem sameForeign_setParent (s : State) : SameForeign (foreignActs s) (setParent s).2 :=
  sameForeign_of_env (sameForeign_drawClk _) (by simp) (by simp) (setParent_spec s).2.2.2

theorem sameForeign_disableUnprepare (c : Clk) (s : State) :
    SameForeign (foreignActs s) (disableUnprepare c s) :=
  sameForeign_of_env (.refl _) (by simp) (by simp) (by simp)

theorem divClearMask_own (p : Params) : divClearMask p.layout &&& ~~~(ownMask p .clkctrl) = 0 := by
  apply BitVec.eq_of_getLsbD_eq
  intro i hi
  cases h1 : p.layout.divSel[i] <;> cases h2 : p.layout.divExtra[i] <;> simp [divClearMask, ownMask, h1, h2, hi]

/-- The format mask lies in the engine's bits of `FMTCTRL`, whichever reading of `NON_PCM` holds (R121). -/
theorem fmtMask_own (p : Params) : fmtMask p &&& ~~~(ownMask p .fmtctrl) = 0 := by
  unfold fmtMask ownMask nonPcmOwned
  cases p.fmtMaskIncludesNonPcm
  · have h : ∀ x n : Word, (x ||| 0) &&& ~~~(x ||| n) = 0 := fun x n => by
      apply BitVec.eq_of_getLsbD_eq
      intro i hi
      cases hx : x.getLsbD i <;> simp_all
    exact h _ _
  · exact BitVec.and_not_self _

/-- Every transaction of the engine keeps the foreign agents' count. -/
theorem afterTurns_kept (s : State) : KeptByTransactions (AfterTurns s) where
  bookkeeping t q e p b c h := h.same rfl ⟨rfl, fun _ => rfl, rfl, rfl⟩
  gate g t h := h.same rfl ⟨rfl, fun _ => rfl, rfl, rfl⟩
  divEnable t h := h.next (by simp [divEnable]) (sameForeign_updateBits _ t (mask_own t.params .divEn (by simp)))
  divDisable t h := h.next (by simp [divDisable]) (sameForeign_updateBits _ t (mask_own t.params .divEn (by simp)))
  holdSet t h := h.next (by simp [holdSet]) (sameForeign_updateBits _ t (mask_own t.params .holdEn (by simp)))
  holdClear t h := h.next (by simp [holdClear]) (sameForeign_updateBits _ t (mask_own t.params .holdEn (by simp)))
  linearSet t h := h.next (by simp [linearSet]) (sameForeign_updateBits _ t (mask_own t.params .linear (by simp)))
  divClear t h := h.next (by simp) (sameForeign_updateBits _ t (divClearMask_own t.params))
  format t w v _ h := h.next (by simp) (sameForeign_updateBits _ t (fmtMask_own t.params))
  csReg t r w hr h := h.next (by simp) (sameForeign_write _ t hr)
  enable t c _ h := h.next (by simp) (sameForeign_prepareEnable c t)
  disable t c _ h := h.next (by simp) (sameForeign_disableUnprepare c t)
  rate t hz h := h.next (by simp) (sameForeign_setRate hz t)
  parent t h := h.next (by simp) (sameForeign_setParent t)

/-- What `AfterTurns` says of a command's result. -/
theorem AfterTurns.keepsForeignBits {s t : State} (h : AfterTurns s t) : KeepsForeignBits s t := by
  obtain ⟨n, hn, hs⟩ := h
  intro r
  rw [hn, Nat.add_sub_cancel_left]
  exact hs.bits r

/-- Every command leaves the foreign bits to the foreign agents (R54, R63). -/
theorem exec_keepsForeignBits {i : Instr} {s t : State} (h : exec i s = .next t) : KeepsForeignBits s t :=
  (exec_keeps (afterTurns_kept s).ops h (.refl s)).keepsForeignBits

end Sys2Proof.Machine
end

