-- ==== Sys2Proof/Laws/Forms.lean ====
section
/-! SUPPORT. Each command written out for each way it can end: the transactions it issues and what it answers. With
`forms_startup` and `forms_configure` these are all the ways. Provers cite them instead of unfolding the sequencer. -/

namespace Sys2Proof.Machine

theorem defensiveHold_setSeq (q : Seq) (s : State) : defensiveHold (setSeq q s) = setSeq q (defensiveHold s) := by
  simp only [defensiveHold, holdSet, setSeq_params, updateBits_setSeq]; rfl

theorem linearSet_setSeq (q : Seq) (s : State) : linearSet (setSeq q s) = setSeq q (linearSet s) := by
  simp only [linearSet, setSeq_params, updateBits_setSeq]

theorem csWrite_setSeq (q : Seq) (s : State) : csWrite (setSeq q s) = setSeq q (csWrite s) := by
  simp only [csWrite, setSeq_latches, write_setSeq]

theorem cleanupFast_setSeq (q : Seq) (s : State) : cleanupFast (setSeq q s) = setSeq q (cleanupFast s) := by
  simp only [cleanupFast, setSeq_params, disableUnprepare_setSeq]; split <;> rfl

theorem gateStart_setSeq (q : Seq) (s : State) : gateStart (setSeq q s) = setSeq q (gateStart s) := by
  simp only [gateStart, divEnable, holdClear, setSeq_params, updateBits_setSeq]; rfl

theorem gateStop_setSeq (q : Seq) (s : State) : gateStop (setSeq q s) = setSeq q (gateStop s) := by
  simp only [gateStop, divDisable, holdSet, setSeq_params, updateBits_setSeq]; rfl

theorem release_setSeq (q : Seq) (s : State) : release (setSeq q s) = setSeq q (release s) := by
  simp only [release, disableUnprepare_setSeq]

@[simp] theorem defensiveHold_answer (s : State) : (defensiveHold s).answer = s.answer := by
  simp [defensiveHold, holdSet]

/-! ### STARTUP (R150, R151) -/

theorem startup_ok {s : State} (h0 : s.answer 0 = .ok) (h1 : s.answer 1 = .ok) (h2 : s.answer 2 = .ok)
    (h3 : s.answer 3 = .ok) :
    startupFrom 1 s =
      complete (linearSet
        (prepareEnable .master
          (prepareEnable .iface (setParent (defensiveHold (prepareEnable .fast s).2)).2).2).2) := by
  unfold startupFrom startupSteps
  simp only [Nat.sub_self, List.drop_zero]
  rw [runSteps_goOn (acquire_ok (by simpa using h0)), runSteps_pure,
    runSteps_goOn (selectAndEnable_ok (by simpa using h1) (by simpa using h2) (by simpa using h3)), runSteps_pure]
  simp only [prepareEnable_setSeq, setParent_setSeq, defensiveHold_setSeq, linearSet_setSeq, runSteps_nil,
    complete_setSeq]

theorem startup_err_fast {s : State} {e : ErrPayload} (h0 : s.answer 0 = .err e) :
    startupFrom 1 s = raise (.clockError .acquireFast e) (prepareEnable .fast s).2 := by
  unfold startupFrom startupSteps
  simp only [Nat.sub_self, List.drop_zero]
  rw [runSteps_raised (acquire_err (by simpa using h0))]
  simp only [prepareEnable_setSeq, raise_setSeq]

theorem startup_err_parent {s : State} {e : ErrPayload} (h0 : s.answer 0 = .ok) (h1 : s.answer 1 = .err e) :
    startupFrom 1 s =
      raise (.clockError .setParent e) (cleanupFast (setParent (defensiveHold (prepareEnable .fast s).2)).2) := by
  unfold startupFrom startupSteps
  simp only [Nat.sub_self, List.drop_zero]
  rw [runSteps_goOn (acquire_ok (by simpa using h0)), runSteps_pure,
    runSteps_raised (selectAndEnable_err_parent (by simpa using h1))]
  simp only [prepareEnable_setSeq, setParent_setSeq, defensiveHold_setSeq, cleanupFast_setSeq, raise_setSeq]

theorem startup_err_iface {s : State} {e : ErrPayload} (h0 : s.answer 0 = .ok) (h1 : s.answer 1 = .ok)
    (h2 : s.answer 2 = .err e) :
    startupFrom 1 s =
      raise (.clockError .enableIface e)
        (cleanupFast (prepareEnable .iface (setParent (defensiveHold (prepareEnable .fast s).2)).2).2) := by
  unfold startupFrom startupSteps
  simp only [Nat.sub_self, List.drop_zero]
  rw [runSteps_goOn (acquire_ok (by simpa using h0)), runSteps_pure,
    runSteps_raised (selectAndEnable_err_iface (by simpa using h1) (by simpa using h2))]
  simp only [prepareEnable_setSeq, setParent_setSeq, defensiveHold_setSeq, cleanupFast_setSeq, raise_setSeq]

theorem startup_err_master {s : State} {e : ErrPayload} (h0 : s.answer 0 = .ok) (h1 : s.answer 1 = .ok)
    (h2 : s.answer 2 = .ok) (h3 : s.answer 3 = .err e) :
    startupFrom 1 s =
      raise (.clockError .enableMaster e)
        (cleanupFast (disableUnprepare .iface
          (prepareEnable .master
            (prepareEnable .iface (setParent (defensiveHold (prepareEnable .fast s).2)).2).2).2)) := by
  unfold startupFrom startupSteps
  simp only [Nat.sub_self, List.drop_zero]
  rw [runSteps_goOn (acquire_ok (by simpa using h0)), runSteps_pure,
    runSteps_raised (selectAndEnable_err_master (by simpa using h1) (by simpa using h2) (by simpa using h3))]
  simp only [prepareEnable_setSeq, setParent_setSeq, defensiveHold_setSeq, disableUnprepare_setSeq,
    cleanupFast_setSeq, raise_setSeq]

/-- The clock provider accepts or refuses (R62). -/
theorem answer_cases (a : ClkResult) : a = .ok ∨ ∃ e, a = .err e := by cases a <;> simp

/-- The five ways a STARTUP can go (R151). -/
theorem forms_startup (s : State) :
    (s.answer 0 = .ok ∧ s.answer 1 = .ok ∧ s.answer 2 = .ok ∧ s.answer 3 = .ok) ∨
    (∃ e, s.answer 0 = .err e) ∨
    (∃ e, s.answer 0 = .ok ∧ s.answer 1 = .err e) ∨
    (∃ e, s.answer 0 = .ok ∧ s.answer 1 = .ok ∧ s.answer 2 = .err e) ∨
    (∃ e, s.answer 0 = .ok ∧ s.answer 1 = .ok ∧ s.answer 2 = .ok ∧ s.answer 3 = .err e) := by
  rcases answer_cases (s.answer 0) with h0 | ⟨e, h0⟩ <;> rcases answer_cases (s.answer 1) with h1 | ⟨e, h1⟩ <;>
    rcases answer_cases (s.answer 2) with h2 | ⟨e, h2⟩ <;> rcases answer_cases (s.answer 3) with h3 | ⟨e, h3⟩ <;>
    simp_all

/-! ### CONFIGURE (R155, R158), before its operands are latched -/

/-- Stage 1 of CONFIGURE as it acts on the state (R156). -/
def stage1 (rate : Rate) (s : State) : State :=
  (setRate (masterTarget rate) (updateBits .clkctrl (divClearMask s.params.layout) 0 s)).2

theorem stage1_latch (rate : Rate) (p : Latches) (s : State) : stage1 rate (latch p s) = latch p (stage1 rate s) := by
  simp only [stage1, latch_params, updateBits_latch, setRate_latch]

theorem stage1_setSeq (rate : Rate) (q : Seq) (s : State) : stage1 rate (setSeq q s) = setSeq q (stage1 rate s) := by
  simp only [stage1, setSeq_params, updateBits_setSeq, setRate_setSeq]

@[simp] theorem stage1_params (rate : Rate) (s : State) : (stage1 rate s).params = s.params := by simp [stage1]
@[simp] theorem stage1_gate (rate : Rate) (s : State) : (stage1 rate s).gate = s.gate := by simp [stage1]
@[simp] theorem stage1_refused (rate : Rate) (s : State) : (stage1 rate s).refused = s.refused := by simp [stage1]
@[simp] theorem stage1_commands (rate : Rate) (s : State) : (stage1 rate s).env.commands = s.env.commands := by
  simp [stage1]
@[simp] theorem stage1_trace (rate : Rate) (s : State) :
    (stage1 rate s).trace = s.trace ++
      [.regUpdateBits .clkctrl (divClearMask s.params.layout) 0, .clkSetRate .master (masterTarget rate) (s.answer 0)] := by
  simp [stage1]
@[simp] theorem stage1_parent (rate : Rate) (s : State) :
    (stage1 rate s).clk.parentMaster = s.clk.parentMaster := by
  simp only [stage1, (setRate_spec _ _).2.1]; split <;> simp

@[simp] theorem stage1_en (rate : Rate) (s : State) (c : Clk) : (stage1 rate s).clk.en c = s.clk.en c := by
  simp only [stage1, (setRate_spec _ _).2.1]; split <;> cases c <;> simp [ClkState.en]

@[simp] theorem stage1_enFast (rate : Rate) (s : State) : (stage1 rate s).clk.enFast = s.clk.enFast :=
  stage1_en rate s .fast

theorem stage1_fault (rate : Rate) (s : State) :
    (stage1 rate s).fault = if s.clk.enFast then s.fault else some (s.fault.getD (.unclockedRegAccess .clkctrl)) := by
  simp [stage1, updateBits_fault]

theorem stage1_clk_ok (rate : Rate) {s : State} (h : s.answer 0 = .ok) :
    (stage1 rate s).clk = { s.clk with rateReqMaster := some (masterTarget rate) } := by
  simp [stage1, (setRate_spec _ _).2.1, h]

theorem stage1_clk_err (rate : Rate) {s : State} {e : ErrPayload} (h : s.answer 0 = .err e) :
    (stage1 rate s).clk = s.clk := by
  simp [stage1, (setRate_spec _ _).2.1, h]

theorem own_stage1 (rate : Rate) (s : State) (r : Reg) :
    (stage1 rate s).own r =
      if r = .clkctrl then maskedValue (s.own .clkctrl) (divClearMask s.params.layout) 0 &&& ownMask s.params .clkctrl
      else s.own r := by
  simp [stage1, own_updateBits]

/-- Entering CONFIGURE at `Busy(configure, 1)` (R75) is running it from its step 0. -/
theorem configure_accepted (p : Latches) (s : State) :
    configureFrom 1 (setSeq (.busy .configure 1) (latch p s)) = configureFrom 0 (latch p s) := by
  unfold configureFrom
  simp only [setSeq_latches, latch_latches, le_refl, Nat.zero_le, true_and]
  split <;> rfl

theorem configure_refused {p : Latches} {s : State} (h : rateInRange p.rate = false) :
    configureFrom 0 (latch p s) = refuseRate (latch p s) := by
  unfold configureFrom
  rw [if_pos ⟨Nat.zero_le 1, h⟩]

/-- A CONFIGURE whose rate is accepted runs its steps from step 1 (R155, R159). -/
theorem configure_steps {p : Latches} {s : State} (h : rateInRange p.rate = true) :
    configureFrom 0 (latch p s) = runSteps .configure 1 configureSteps (latch p s) := by
  unfold configureFrom
  rw [if_neg (by simp [h])]
  rfl

theorem configure_err_rate {p : Latches} {s : State} {e : ErrPayload} (h : rateInRange p.rate = true)
    (h0 : s.answer 0 = .err e) :
    configureFrom 0 (latch p s) = raise (.clockError .setRate e) (latch p (stage1 p.rate s)) := by
  rw [configure_steps h, configureSteps, runSteps_raised (cfgClock_err (by simpa using h0))]
  simp only [setSeq_latches, latch_latches]
  exact congrArg (raise _) (stage1_setSeq p.rate _ (latch p s)) |>.trans (by rw [raise_setSeq, stage1_latch])

theorem configure_err_cs {p : Latches} {s : State} (h : rateInRange p.rate = true) (h0 : s.answer 0 = .ok)
    (hc : p.csOk = false) :
    configureFrom 0 (latch p s) = raise .formatError (latch p (stage1 p.rate s)) := by
  rw [configure_steps h, configureSteps, runSteps_goOn (cfgClock_ok (by simpa using h0)),
    runSteps_raised (csCheck_err (by simpa using hc))]
  simp only [setSeq_latches, latch_latches, raise_setSeq]
  exact congrArg (raise _) (stage1_setSeq p.rate _ (latch p s)) |>.trans (by rw [raise_setSeq, stage1_latch])

theorem configure_err_width {p : Latches} {s : State} (h : rateInRange p.rate = true) (h0 : s.answer 0 = .ok)
    (hc : p.csOk = true) (hv : fmtVal s.params.layout p.width = none) :
    configureFrom 0 (latch p s) = raise .unsupportedFormatError (csWrite (latch p (stage1 p.rate s))) := by
  rw [configure_steps h, configureSteps, runSteps_goOn (cfgClock_ok (by simpa using h0)),
    runSteps_goOn (csCheck_ok (by simpa using hc)), runSteps_pure, runSteps_raised (fmtConfig_none (by simpa using hv))]
  simp only [setSeq_latches, latch_latches, raise_setSeq, csWrite_setSeq]
  exact congrArg (fun t => raise _ (csWrite t)) (stage1_setSeq p.rate _ (latch p s)) |>.trans
    (by simp only [csWrite_setSeq, raise_setSeq, stage1_latch])

theorem configure_ok {p : Latches} {s : State} {v : Word} (h : rateInRange p.rate = true) (h0 : s.answer 0 = .ok)
    (hc : p.csOk = true) (hv : fmtVal s.params.layout p.width = some v) :
    configureFrom 0 (latch p s) =
      complete (updateBits .fmtctrl (fmtMask s.params) v (csWrite (latch p (stage1 p.rate s)))) := by
  rw [configure_steps h, configureSteps, runSteps_goOn (cfgClock_ok (by simpa using h0)),
    runSteps_goOn (csCheck_ok (by simpa using hc)), runSteps_pure,
    runSteps_goOn (fmtConfig_some (v := v) (by simpa using hv))]
  simp only [setSeq_latches, latch_latches, csWrite_setSeq, setSeq_params, csWrite_params, setRate_params,
    updateBits_params, latch_params, updateBits_setSeq, setRate_setSeq, runSteps_nil, complete_setSeq]
  exact congrArg (fun t => complete (updateBits .fmtctrl (fmtMask s.params) v (csWrite t))) (stage1_latch p.rate p s)

/-- The five ways a CONFIGURE can go (R158). -/
theorem forms_configure (p : Latches) (s : State) :
    rateInRange p.rate = false ∨
    (rateInRange p.rate = true ∧ ∃ e, s.answer 0 = .err e) ∨
    (rateInRange p.rate = true ∧ s.answer 0 = .ok ∧ p.csOk = false) ∨
    (rateInRange p.rate = true ∧ s.answer 0 = .ok ∧ p.csOk = true ∧ fmtVal s.params.layout p.width = none) ∨
    (rateInRange p.rate = true ∧ s.answer 0 = .ok ∧ p.csOk = true ∧ ∃ v, fmtVal s.params.layout p.width = some v) := by
  rcases answer_cases (s.answer 0) with h0 | ⟨e, h0⟩ <;> cases hr : rateInRange p.rate <;> cases hc : p.csOk <;>
    cases hv : fmtVal s.params.layout p.width <;> simp_all

/-! ### TRIGGER (R160) and SHUTDOWN (R163) -/

theorem trigger_start {cmd : TransportCommand} (h : cmd.cls = .start) (s : State) :
    triggerFrom cmd 1 s = complete (gateStart s) := by
  simp only [triggerFrom, triggerSteps, h, Nat.sub_self, List.drop_zero, runSteps_pure, runSteps_nil, gateStart_setSeq,
    complete_setSeq]

theorem trigger_stop {cmd : TransportCommand} (h : cmd.cls = .stop) (s : State) :
    triggerFrom cmd 1 s = complete (gateStop s) := by
  simp only [triggerFrom, triggerSteps, h, Nat.sub_self, List.drop_zero, runSteps_pure, runSteps_nil, gateStop_setSeq,
    complete_setSeq]

theorem trigger_rejected (code : Byte) (s : State) :
    triggerFrom (.other code) 1 s = raise .invalidCommandError s := rfl

theorem shutdown_form (s : State) : shutdownFrom 1 s = complete (release s) := by
  simp only [shutdownFrom, shutdownSteps, Nat.sub_self, List.drop_zero, runSteps_pure, runSteps_nil, release_setSeq,
    complete_setSeq]

/-- The start-class commands (R138, R139, R140). -/
theorem exec_startClass {i : Instr} (h : i = .triggerStart ∨ i = .triggerResume ∨ i = .triggerPauseRelease) (s : State) :
    exec i s = .next (complete (gateStart s)) := by
  rcases h with rfl | rfl | rfl
  · show Host.Outcome.next (triggerFrom .start 1 s) = _; rw [trigger_start rfl]
  · show Host.Outcome.next (triggerFrom .resume 1 s) = _; rw [trigger_start rfl]
  · show Host.Outcome.next (triggerFrom .pauseRelease 1 s) = _; rw [trigger_start rfl]

/-- The stop-class commands (R141, R142, R143). -/
theorem exec_stopClass {i : Instr} (h : i = .triggerStop ∨ i = .triggerSuspend ∨ i = .triggerPausePush) (s : State) :
    exec i s = .next (complete (gateStop s)) := by
  rcases h with rfl | rfl | rfl
  · show Host.Outcome.next (triggerFrom .stop 1 s) = _; rw [trigger_stop rfl]
  · show Host.Outcome.next (triggerFrom .suspend 1 s) = _; rw [trigger_stop rfl]
  · show Host.Outcome.next (triggerFrom .pausePush 1 s) = _; rw [trigger_stop rfl]

theorem exec_shutdown (s : State) : exec .shutdown s = .next (complete (release s)) := by
  show Host.Outcome.next (shutdownFrom 1 s) = _
  rw [shutdown_form]

theorem exec_startup (s : State) : exec .startup s = .next (startupFrom 1 s) := rfl

theorem exec_configure (rate : Rate) (width channels : Byte) (csOk : Bool) (cs : CsBytes) (s : State) :
    exec (.configure rate width channels csOk cs) s =
      .next (configureFrom 0 (latch ⟨rate, width, channels, csOk, cs⟩ s)) :=
  congrArg Host.Outcome.next (configure_accepted _ s)

theorem exec_triggerInvalid (code : Byte) (s : State) :
    exec (.triggerInvalid code) s = .next (raise .invalidCommandError s) := rfl

end Sys2Proof.Machine
end

