-- ==== Sys2Proof/Laws/Issued.lean ====
section
/-! SUPPORT. Every list of transactions a command can issue, with what it answers (R166): an inversion of `exec` for
claims about the trace. -/

namespace Sys2Proof.Machine

/-- The lists of transactions the command `i` can issue from `s`, and the end state `t` each belongs to; that a list
belongs to `i` is said only where the end state does not tell it (R134, R135, R151, R158,
R163). -/
inductive Issued (i : Instr) (s t : State) : List Transaction → Prop where
  | startupOk : t.resp = .ok → Issued i s t
      [.clkPrepareEnable .fast .ok, .regUpdateBits .holdctrl s.params.layout.holdEn s.params.layout.holdEn,
       .clkSetParent .master .masterSelect .ok, .clkPrepareEnable .iface .ok, .clkPrepareEnable .master .ok,
       .regUpdateBits .memctrl s.params.layout.linear s.params.layout.linear]
  | startupErrFast (e : ErrPayload) : t.resp = .clockError .acquireFast e → Issued i s t [.clkPrepareEnable .fast (.err e)]
  | startupErrParent (e : ErrPayload) : t.resp = .clockError .setParent e → Issued i s t
      ([.clkPrepareEnable .fast .ok, .regUpdateBits .holdctrl s.params.layout.holdEn s.params.layout.holdEn,
        .clkSetParent .master .masterSelect (.err e)] ++ cleanupTrace s.params)
  | startupErrIface (e : ErrPayload) : t.resp = .clockError .enableIface e → Issued i s t
      ([.clkPrepareEnable .fast .ok, .regUpdateBits .holdctrl s.params.layout.holdEn s.params.layout.holdEn,
        .clkSetParent .master .masterSelect .ok, .clkPrepareEnable .iface (.err e)] ++ cleanupTrace s.params)
  | startupErrMaster (e : ErrPayload) : t.resp = .clockError .enableMaster e → Issued i s t
      ([.clkPrepareEnable .fast .ok, .regUpdateBits .holdctrl s.params.layout.holdEn s.params.layout.holdEn,
        .clkSetParent .master .masterSelect .ok, .clkPrepareEnable .iface .ok, .clkPrepareEnable .master (.err e),
        .clkDisableUnprepare .iface] ++ cleanupTrace s.params)
  | configureRefused (rate : Rate) (width channels : Byte) (csOk : Bool) (cs : CsBytes) :
      i = .configure rate width channels csOk cs → rateInRange rate = false → t.refused = true → t.resp = s.resp →
      Issued i s t []
  | configureErrRate (hz : Rate) (e : ErrPayload) : t.resp = .clockError .setRate e → Issued i s t
      [.regUpdateBits .clkctrl (divClearMask s.params.layout) 0, .clkSetRate .master hz (.err e)]
  | configureErrCs (hz : Rate) : t.resp = .formatError → Issued i s t
      [.regUpdateBits .clkctrl (divClearMask s.params.layout) 0, .clkSetRate .master hz .ok]
  | configureErrWidth (hz : Rate) (a b : Half) : t.resp = .unsupportedFormatError → Issued i s t
      [.regUpdateBits .clkctrl (divClearMask s.params.layout) 0, .clkSetRate .master hz .ok,
       .regWrite .csL0 (a.zeroExtend 32), .regWrite .csR0 (a.zeroExtend 32), .regWrite .csL1 (b.zeroExtend 32),
       .regWrite .csR1 (b.zeroExtend 32)]
  | configureOk (hz : Rate) (a b : Half) (w : Byte) (v : Word) : t.resp = .ok → fmtVal s.params.layout w = some v →
      Issued i s t
      [.regUpdateBits .clkctrl (divClearMask s.params.layout) 0, .clkSetRate .master hz .ok,
       .regWrite .csL0 (a.zeroExtend 32), .regWrite .csR0 (a.zeroExtend 32), .regWrite .csL1 (b.zeroExtend 32),
       .regWrite .csR1 (b.zeroExtend 32), .regUpdateBits .fmtctrl (fmtMask s.params) v]
  | gateStart : t.resp = .ok → Issued i s t
      [.regUpdateBits .clkctrl s.params.layout.divEn s.params.layout.divEn,
       .regUpdateBits .holdctrl s.params.layout.holdEn 0]
  | gateStop : t.resp = .ok → Issued i s t
      [.regUpdateBits .holdctrl s.params.layout.holdEn s.params.layout.holdEn,
       .regUpdateBits .clkctrl s.params.layout.divEn 0]
  | rejected : t.resp = .invalidCommandError → Issued i s t []
  | shutdown : t.resp = .ok → Issued i s t
      [.clkDisableUnprepare .iface, .clkDisableUnprepare .master, .clkDisableUnprepare .fast]

theorem gains_unique {s t : State} {new l : List Transaction} (h : Gains s t new) (e : t.trace = s.trace ++ l) :
    new = l := by
  unfold Gains at h
  rw [h] at e
  exact List.append_cancel_left e

theorem issued_startup (s : State) {new : List Transaction} (g : Gains s (startupFrom 1 s) new) :
    Issued .startup s (startupFrom 1 s) new := by
  rcases forms_startup s with ⟨h0, h1, h2, h3⟩ | ⟨e, h0⟩ | ⟨e, h0, h1⟩ | ⟨e, h0, h1, h2⟩ | ⟨e, h0, h1, h2, h3⟩
  · rw [startup_ok h0 h1 h2 h3] at g ⊢
    refine (gains_unique g ?_) ▸ Issued.startupOk rfl
    simp [linearSet, defensiveHold, holdSet, h0, h1, h2, h3]
  · rw [startup_err_fast h0] at g ⊢
    refine (gains_unique g ?_) ▸ Issued.startupErrFast e rfl
    simp [h0]
  · rw [startup_err_parent h0 h1] at g ⊢
    refine (gains_unique g ?_) ▸ Issued.startupErrParent e rfl
    simp [defensiveHold, holdSet, h0, h1]
  · rw [startup_err_iface h0 h1 h2] at g ⊢
    refine (gains_unique g ?_) ▸ Issued.startupErrIface e rfl
    simp [defensiveHold, holdSet, h0, h1, h2]
  · rw [startup_err_master h0 h1 h2 h3] at g ⊢
    refine (gains_unique g ?_) ▸ Issued.startupErrMaster e rfl
    simp [defensiveHold, holdSet, h0, h1, h2, h3]

theorem issued_configure (p : Latches) (s : State) {new : List Transaction}
    (g : Gains s (configureFrom 0 (latch p s)) new) :
    Issued (.configure p.rate p.width p.channels p.csOk p.cs) s (configureFrom 0 (latch p s)) new := by
  rcases forms_configure p s with h | ⟨h, e, h0⟩ | ⟨h, h0, h1⟩ | ⟨h, h0, h1, h2⟩ | ⟨h, h0, h1, v, h2⟩
  · rw [configure_refused h] at g ⊢
    refine (gains_unique g ?_) ▸ Issued.configureRefused _ _ _ _ _ rfl h rfl rfl
    simp
  · rw [configure_err_rate h h0] at g ⊢
    refine (gains_unique g ?_) ▸ Issued.configureErrRate (masterTarget p.rate) e rfl
    simp [h0]
  · rw [configure_err_cs h h0 h1] at g ⊢
    refine (gains_unique g ?_) ▸ Issued.configureErrCs (masterTarget p.rate) rfl
    simp [h0]
  · rw [configure_err_width h h0 h1 h2] at g ⊢
    refine (gains_unique g ?_) ▸ Issued.configureErrWidth (masterTarget p.rate) (csWord0 p.cs) (csWord1 p.cs) rfl
    simp [h0]
  · rw [configure_ok h h0 h1 h2] at g ⊢
    refine (gains_unique g ?_) ▸ Issued.configureOk (masterTarget p.rate) (csWord0 p.cs) (csWord1 p.cs) p.width v rfl h2
    simp [h0]

/-- What any command issues (R166). -/
theorem exec_issued {i : Instr} {s t : State} {new : List Transaction} (h : exec i s = .next t) (g : Gains s t new) :
    Issued i s t new := by
  cases i
  case startup => injection h with h; subst h; exact issued_startup s g
  case configure => rw [exec_configure] at h; injection h with h; subst h; exact issued_configure _ s g
  case triggerInvalid =>
    injection h with h; subst h
    refine (gains_unique g ?_) ▸ Issued.rejected rfl
    simp [triggerFrom, triggerSteps, TransportCommand.cls, runSteps]
  case shutdown =>
    rw [exec_shutdown] at h; injection h with h; subst h
    refine (gains_unique g ?_) ▸ Issued.shutdown rfl
    simp [release]
  case triggerStart | triggerResume | triggerPauseRelease =>
    rw [exec_startClass (by simp)] at h; injection h with h; subst h
    refine (gains_unique g ?_) ▸ Issued.gateStart rfl
    simp [gateStart, divEnable, holdClear]
  case triggerStop | triggerSuspend | triggerPausePush =>
    rw [exec_stopClass (by simp)] at h; injection h with h; subst h
    refine (gains_unique g ?_) ▸ Issued.gateStop rfl
    simp [gateStop, divDisable, holdSet]

/-- The cleanup of SELECT_AND_ENABLE issues nothing or one release (R97). -/
theorem cleanupTrace_cases (p : Params) : cleanupTrace p = [] ∨ cleanupTrace p = [.clkDisableUnprepare .fast] := by
  unfold cleanupTrace; split <;> simp

end Sys2Proof.Machine
end

