-- ==== Sys2Proof/Tests/Slice0.lean ====
section
/-! SUPPORT. The model's own tests and the witnesses of the statements' hypotheses. Expected values are those of
spec/95_test_vectors.md and of the worked examples in the rules named; none is taken from the model. Register values and
masks are those of the reference layout (R57), which the spec allows for test vectors only. -/

namespace Sys2Proof.Tests

open Sys2Proof Sys2Proof.Machine

/-! ### Small states -/

/-- The one payload that the type is known to hold (R6). -/
abbrev e0 : ErrPayload := ⟨none⟩

/-- The state a command leaves, if it leaves one. -/
def after (o : Host.Outcome State Fault Refusal) : Option State :=
  match o with
  | .next s => some s
  | .fault _ => none
  | .refused _ => none

/-- Ten turns of the foreign agents in which they change nothing. -/
def quietTurns : List ForeignFlip := List.replicate 10 .quiet

/-- Reset with the given registers, the given answers of the clock provider and quiet foreign agents. -/
def bench (regs : RegBlock) (answers : List ClkResult) : State :=
  { State.reset with regs := regs, env := { Env.empty with clkAnswers := answers, foreignFlips := quietTurns } }

/-- The registers of the stage vectors of section 2.7. -/
def regs0 : RegBlock := ⟨0, 0x100, 1, 0, 0, 0, 0, 0⟩

/-- A state with the three clocks on, as after STARTUP. -/
def clocked (regs : RegBlock) (g : Gate) (answers : List ClkResult) : State :=
  { bench regs answers with
    gate := g, clk := { enFast := true, enIface := true, enMaster := true, enMasterSelect := false,
                        parentMaster := some .masterSelect, rateReqMaster := some 5644800 } }

/-- The channel-status bytes `04 82 00 02`. -/
def cs48 : CsBytes := ⟨0x04, 0x82, 0x00, 0x02⟩

/-- The host's next presentation. -/
def withCommand (cw : Word) (pb : ParamBlock) (s : State) : State := present ⟨cw, pb⟩ s

/-! ### Well-formedness: one ill-formed term for each check -/

theorem test_wf_named_code_refused : (Instr.triggerInvalid 0x05).wellFormed = false := by decide
theorem test_wf_other_code : (Instr.triggerInvalid 0x02).wellFormed = true := by decide
theorem test_wf_addresses : ({ Layout.reference with addrCsR1 := 0x020 }).addrsDistinct = false := by decide
theorem test_wf_runs : ({ Layout.reference with divSel := 0x50 }).masksAreRuns = false := by decide
theorem test_wf_empty_mask : ({ Layout.reference with shift32 := 0 }).masksAreRuns = false := by decide
theorem test_wf_one_bit : ({ Layout.reference with ufs := 0x3000 }).oneBitFields = false := by decide
theorem test_wf_two_bits : ({ Layout.reference with align16 := 0x20 }).align16HasTwoBits = false := by decide
theorem test_wf_disjoint : ({ Layout.reference with flr := 0x80 }).masksDisjoint = false := by decide
theorem test_wf_other_register_may_share : ({ Layout.reference with linear := 0x2 }).wf = true := by decide

/-! ### Decoding: words written out from R71 to R73 (section 2.1), one for each constructor -/

theorem test_dec_startup : decode 0x10000000 .zero = .ok .startup := by decide
theorem test_dec_configure :
    decode 0x20000000 ⟨0x000000000000BB80, 0x10, 0x02, true, 0x02008204⟩ = .ok (.configure 48000 16 2 true cs48) := by
  decide
theorem test_dec_stop : decode 0x30000000 .zero = .ok .triggerStop := by decide
theorem test_dec_start : decode 0x30000001 .zero = .ok .triggerStart := by decide
theorem test_dec_pause_push : decode 0x30000003 .zero = .ok .triggerPausePush := by decide
theorem test_dec_pause_release : decode 0x30000004 .zero = .ok .triggerPauseRelease := by decide
theorem test_dec_suspend : decode 0x30000005 .zero = .ok .triggerSuspend := by decide
theorem test_dec_resume : decode 0x30000006 .zero = .ok .triggerResume := by decide
theorem test_dec_invalid : decode 0x30000002 .zero = .ok (.triggerInvalid 2) := by decide
theorem test_dec_invalid_last : decode 0x300000FF .zero = .ok (.triggerInvalid 255) := by decide
theorem test_dec_shutdown : decode 0x40000000 .zero = .ok .shutdown := by decide
theorem test_dec_opcode_zero : decode 0x00000000 .zero = .error .reservedOpcode := by decide
theorem test_dec_opcode_five : decode 0x50000000 .zero = .error .reservedOpcode := by decide
theorem test_dec_startup_arg : decode 0x10000001 .zero = .error .argumentNotZero := by decide
theorem test_dec_configure_arg : decode 0x20000010 .zero = .error .argumentNotZero := by decide
theorem test_dec_shutdown_arg : decode 0x40000080 .zero = .error .argumentNotZero := by decide
theorem test_dec_reserved_low : decode 0x30000100 .zero = .error .reservedBits := by decide
theorem test_dec_reserved_high : decode 0x38000001 .zero = .error .reservedBits := by decide
theorem test_dec_port_order : csOfPort 0x78563412 = ⟨0x12, 0x34, 0x56, 0x78⟩ := by decide
theorem test_dec_table_word : decodeTableWord 32 0x30000005 = some .triggerSuspend := by decide
theorem test_dec_table_word_illegal : decodeTableWord 32 0xF0000000 = none := by decide
theorem test_enc_suspend : (encode .triggerSuspend).cw = 0x30000005 := by decide
theorem test_enc_configure_port : (encode (.configure 48000 16 2 true cs48)).pb.pbCs = 0x02008204 := by decide

/-! ### The response (R76, section 2.1) -/

theorem test_rsp_enable_iface (e : ErrPayload) :
    (Resp.clockError .enableIface e).code = 1 ∧ (Resp.clockError .enableIface e).stage = 3 ∧
      (Resp.clockError .enableIface e).payload = some e := ⟨rfl, rfl, rfl⟩
theorem test_rsp_illegal : Resp.illegalOp.code = 15 ∧ Resp.illegalOp.stage = 0 := by decide
theorem test_rsp_unproduced : respOfFields 5 0 none = none := by decide

/-! ### Register primitives and operands (sections 2.2, 2.4, 2.5) -/

theorem test_update_keeps_outside : maskedValue 0xFFFFFFFF 0x000000F0 0x00000050 = 0xFFFFFF5F := by decide
theorem test_update_ignores_outside_value : maskedValue 0 0x000000F0 0x00000F5F = 0x00000050 := by decide
theorem test_write_whole :
    (write .csL0 0x00000482 (clocked ⟨0, 0, 0, 0, 0xDEADBEEF, 0, 0, 0⟩ .held [])).regs.csL0 = 0x00000482 := by decide
theorem test_field_put : fieldPut Layout.reference.align16 2 = 0x00000040 := by decide
theorem test_field_get : fieldGet Layout.reference.align16 0x00003042 = 2 := by decide
theorem test_pack : csWord0 ⟨0x12, 0x34, 0x56, 0x78⟩ = 0x1234 ∧ csWord1 ⟨0x12, 0x34, 0x56, 0x78⟩ = 0x5678 := by decide
theorem test_fmt_value_16 : fmtVal Layout.reference 16 = some 0x00003042 := by decide
theorem test_fmt_value_24 : fmtVal Layout.reference 24 = some 0x00003080 := by decide
theorem test_fmt_value_17 : fmtVal Layout.reference 17 = none := by decide
theorem test_fmt_mask_without_nonpcm :
    fmtMask { Params.reference with fmtMaskIncludesNonPcm := false } = 0x000037E2 := by decide
theorem test_target_largest : masterTarget 144115188075855871 = 18446744073709551488 := by decide
theorem test_rate_bounds : rateInRange 0 = false ∧ rateInRange 1 = true ∧ rateInRange 144115188075855871 = true ∧
    rateInRange 144115188075855872 = false := by decide

/-! ### STARTUP (section 2.8, P1) -/

theorem test_startup_trace :
    (after (exec .startup (bench ⟨0, 0x38, 0, 0, 0, 0, 0, 0⟩ [.ok, .ok, .ok, .ok]))).map (fun t => (t.trace, t.regs.memctrl)) =
      some ([.clkPrepareEnable .fast .ok, .regUpdateBits .holdctrl 1 1, .clkSetParent .master .masterSelect .ok,
        .clkPrepareEnable .iface .ok, .clkPrepareEnable .master .ok, .regUpdateBits .memctrl 0x100 0x100], 0x138) := by
  decide

theorem test_startup_enable_master_fails :
    (after (exec .startup (bench ⟨0, 0, 0, 0, 0, 0, 0, 0⟩ [.ok, .ok, .ok, .err e0]))).map
        (fun t => (t.resp, t.clk.enFast, t.clk.enIface, t.clk.enMaster, t.regs.holdctrl, t.trace.length)) =
      some (.clockError .enableMaster e0, true, false, false, 1, 6) := by decide

/-! ### CONFIGURE (section 2.7, P1) -/

theorem test_configure_p1 :
    (after (exec (.configure 48000 16 2 true cs48)
        (clocked ⟨0x9031, 0x138, 1, 0x883, 0xDEADBEEF, 0xDEADBEEF, 0xDEADBEEF, 0xDEADBEEF⟩ .held [.ok]))).map
        (fun t => (t.resp, t.clk.rateReqMaster, t.regs)) =
      some (.ok, some 6144000, ⟨0x8001, 0x138, 1, 0x3842, 0x482, 0x482, 0x2, 0x2⟩) := by decide

theorem test_configure_earliest_error_wins :
    (after (exec (.configure 48000 20 2 false ⟨0, 0, 0, 0⟩) (clocked regs0 .held [.err e0]))).map
        (fun t => (t.resp, t.clk.rateReqMaster, t.trace.length)) =
      some (.clockError .setRate e0, some 5644800, 2) := by decide

/-! ### TRIGGER (section 2.6) -/

theorem test_start :
    (after (exec .triggerStart (clocked ⟨0x1030, 0, 1, 0, 0, 0, 0, 0⟩ .held []))).map
        (fun t => (t.trace, t.regs.clkctrl, t.regs.holdctrl, t.gate)) =
      some ([.regUpdateBits .clkctrl 2 2, .regUpdateBits .holdctrl 1 0], 0x1032, 0, .flowing) := by decide

theorem test_stop :
    (after (exec .triggerStop (clocked ⟨0x1032, 0, 0, 0, 0, 0, 0, 0⟩ .flowing []))).map
        (fun t => (t.trace, t.regs.clkctrl, t.regs.holdctrl, t.gate)) =
      some ([.regUpdateBits .holdctrl 1 1, .regUpdateBits .clkctrl 2 0], 0x1030, 1, .held) := by decide

theorem test_resume :
    (after (exec .triggerResume (clocked ⟨0, 0, 0xFFFFFFFF, 0, 0, 0, 0, 0⟩ .held []))).map
        (fun t => (t.regs.clkctrl, t.regs.holdctrl, t.gate)) = some (2, 0xFFFFFFFE, .flowing) := by decide

theorem test_pause_release :
    (after (exec .triggerPauseRelease (clocked ⟨0, 0, 1, 0, 0, 0, 0, 0⟩ .held []))).map
        (fun t => (t.regs.clkctrl, t.regs.holdctrl, t.gate)) = some (2, 0, .flowing) := by decide

theorem test_suspend :
    (after (exec .triggerSuspend (clocked ⟨0xFFFFFFFF, 0, 0, 0, 0, 0, 0, 0⟩ .flowing []))).map
        (fun t => (t.regs.clkctrl, t.regs.holdctrl, t.gate)) = some (0xFFFFFFFD, 1, .held) := by decide

theorem test_pause_push :
    (after (exec .triggerPausePush (clocked ⟨2, 0, 0, 0, 0, 0, 0, 0⟩ .flowing []))).map
        (fun t => (t.regs.clkctrl, t.regs.holdctrl, t.gate)) = some (0, 1, .held) := by decide

theorem test_invalid :
    (after (exec (.triggerInvalid 2) (clocked ⟨2, 0, 0, 0, 0, 0, 0, 0⟩ .flowing []))).map
        (fun t => (t.resp, t.gate, t.trace, t.refused)) = some (.invalidCommandError, .flowing, [], false) := by decide

/-! ### SHUTDOWN (P3), faults and refusals (section 2.9) -/

theorem test_shutdown_in_flowing :
    (after (exec .shutdown (clocked ⟨2, 0x100, 0, 0x3080, 0, 0, 0, 0⟩ .flowing []))).map
        (fun t => (t.trace, t.clk.enFast, t.gate, t.regs.clkctrl, t.regs.holdctrl)) =
      some ([.clkDisableUnprepare .iface, .clkDisableUnprepare .master, .clkDisableUnprepare .fast], false, .flowing, 2, 0) := by
  decide

theorem test_fault_first_kept :
    (after (exec .triggerStart (bench ⟨0, 0, 0, 0, 0, 0, 0, 0⟩ []))).map (fun t => (t.fault, t.resp)) =
      some (some (.unclockedRegAccess .clkctrl), .ok) := by decide

theorem test_rate_zero_refused :
    (after (exec (.configure 0 16 2 true cs48) (clocked regs0 .held [.ok]))).map (fun t => (t.refused, t.resp, t.trace)) =
      some (true, .ok, []) := by decide

/-! ### The step and the text of a command (R75, R80, R81) -/

theorem test_step_illegal_word :
    (after (step (withCommand 0x50000000 .zero (bench regs0 [])))).map (fun t => (t.refused, t.resp, t.trace)) =
      some (true, .illegalOp, []) := by decide

theorem test_step_runs_presented :
    (after (step (State.withFetchWord (clocked regs0 .held []) 32 0x40000000))).map
        (fun t => (t.clk.enFast, t.resp, t.env.commands)) = some (false, .ok, []) := by decide

theorem test_line_configure :
    readLine "CONFIGURE rate=48000 width=16 ch=2 cs=04,82,00,02 ! clk=Err(e2)" =
      some (.configure 48000 16 2 true cs48, some [.err (Config.errNamed 2)]) := rfl

/-- R74, R80, R81: `cs=ERR` is `PB_CS_OK = 0`; the bytes that stand on the port are open. -/
theorem test_line_hw_params :
    readLine "HW_PARAMS rate=44100 width=24 ch=2 cs=ERR # comment" =
      some (.configure 44100 24 2 false (Config.ignoredCsBytes ⟨44100, 24, 2⟩), none) := rfl

theorem test_line_trigger_code : readLine "TRIGGER 7" = some (.triggerInvalid 7, none) := by decide

theorem test_line_too_large : readLine "TRIGGER 256" = none := by decide

/-- R63, by hand: every bit of `CLKCTRL` outside the three fields is flipped, the fields are kept. -/
theorem test_foreign_bits_only :
    (foreignActs { bench ⟨0x1032, 0, 0, 0, 5, 0, 0, 0⟩ [] with
      env := { Env.empty with foreignFlips := [⟨0xFFFFFFFF, 0, 0, 0⟩] } }).regs = ⟨0xFFFFFFFF, 0, 0, 0, 5, 0, 0, 0⟩ := by
  decide

/-- The foreign agents flip all they may of `FMTCTRL = 0x37E3`, with `NON_PCM` (bit 0) outside the format mask. -/
abbrev nonPcmOutside (foreign : Bool) : State :=
  foreignActs { bench ⟨0, 0, 0, 0x37E3, 0, 0, 0, 0⟩ [] with
    params := { Params.reference with fmtMaskIncludesNonPcm := false, nonPcmForeign := foreign },
    env := { Env.empty with foreignFlips := [⟨0, 0, 0, 0xFFFFFFFF⟩] } }

/-- R12, R63: `NON_PCM` is a bit of the twelve fields, so it stays. -/
theorem test_foreign_keeps_non_pcm : (nonPcmOutside false).regs.fmtctrl = 0xFFFFFFFF := by decide

/-- R121: `NON_PCM` is a foreign bit of this engine, so it may change. -/
theorem test_foreign_changes_non_pcm : (nonPcmOutside true).regs.fmtctrl = 0xFFFFFFFE := by decide

/-- R75, R155: at `Busy(configure, 1)` a rate of 0 is refused with no transaction. -/
theorem test_configure_busy_one_tests_the_rate :
    (after (step (setSeq (.busy .configure 1) (clocked regs0 .held [])))).map (fun t => (t.refused, t.trace, t.seq)) =
      some (true, [], .idle) := by decide

/-- R83: the declared formats are signed and little-endian. -/
theorem test_capabilities_formats :
    Config.capabilities.formats = [⟨16, true, .littleEndian⟩, ⟨24, true, .littleEndian⟩] := by decide

/-! ### Witnesses: for each statement with hypotheses, values that meet them all together -/

/-- The clocks on, the given number of calls accepted. -/
abbrev onOk (n : Nat) : State := clocked regs0 .held (List.replicate n .ok)

/-- The first call refused. -/
abbrev onErr : State := clocked regs0 .held [.err e0]

/-- Data flowing (R214). -/
abbrev flowing4 : State := clocked ⟨2, 0x100, 0, 0, 0, 0, 0, 0⟩ .flowing [.ok, .ok, .ok, .ok]

theorem witness_EncodeThenDecode :
    (Instr.triggerInvalid 0x02).wellFormed = true ∧ (Instr.triggerInvalid 0xFF).wellFormed = true ∧
      (Instr.configure 0 0 0 false ⟨0, 0, 0, 0⟩).wellFormed = true := by decide

theorem witness_DecodeThenEncode :
    decode 0x20000000 ⟨48000, 16, 2, true, 0x02008204⟩ = .ok (.configure 48000 16 2 true cs48) ∧
      decode 0x30000002 ⟨1, 1, 1, true, 1⟩ = .ok (.triggerInvalid 2) := by decide

theorem witness_AcceptedCommandWords :
    (0x300000FF : Word) &&& 0xFFFFFF00 = 0x30000000 ∧ decode 0x300000FF .zero = .ok (.triggerInvalid 255) := by decide

theorem witness_ResponseFieldsReadBack :
    respOfFields 1 5 (some e0) = some (.clockError .setRate e0) ∧ respOfFields 15 0 none = some .illegalOp := by decide

theorem witness_StepRunsTheDecodedCommand :
    (∃ (s : State) (c : Presented) (rest : List Presented) (i : Instr),
      s.seq = .idle ∧ s.env.commands = c :: rest ∧ decode c.cw c.pb = .ok i) ∧
    decodeTableWord 32 0x30000001 = some .triggerStart :=
  ⟨⟨withCommand 0x30000001 .zero (onOk 0), ⟨0x30000001, .zero⟩, [], .triggerStart, by decide⟩, by decide⟩

theorem witness_StepWithoutACommand :
    (∃ (s : State) (c : Presented) (rest : List Presented) (e : DecodeError),
      s.seq = .idle ∧ s.env.commands = c :: rest ∧ decode c.cw c.pb = .error e) ∧
    (∃ s : State, s.seq = .idle ∧ s.env.commands = []) ∧
    ∃ (s : State) (op : Op) (k : Nat), s.seq = .busy op k :=
  ⟨⟨withCommand 0x50000000 .zero (onOk 0), ⟨0x50000000, .zero⟩, [], .reservedOpcode, by decide⟩,
    ⟨onOk 0, by decide⟩, ⟨setSeq (.busy .startup 3) (onOk 0), .startup, 3, by decide⟩⟩

theorem witness_FieldPutThenGet :
    (0 < 1 ∧ 31 + 1 ≤ 32 ∧ (1 : Word).toNat < 2 ^ 1) ∧ (0 < 32 ∧ 0 + 32 ≤ 32 ∧ (0xFFFFFFFF : Word).toNat < 2 ^ 32) := by
  decide

theorem witness_AddressesTellRegistersApart :
    Layout.reference.wf = true ∧ Layout.reference.regAt 0x1A4 = some .memctrl := by decide

theorem witness_UpdateBitsIsTheMaskedUpdate : (onOk 0).clk.enFast = true := by decide

theorem witness_WriteReplacesTheWholeRegister : (onOk 0).clk.enFast = true := by decide

/-- STARTUP from reset: the four answers of each row of R151. -/
theorem witness_StartupBringsTheEngineUp :
    ∃ s : State, s.params.layout.wf = true ∧ s.answer 0 = .ok ∧ s.answer 1 = .ok ∧ s.answer 2 = .ok ∧ s.answer 3 = .ok :=
  ⟨bench regs0 [.ok, .ok, .ok, .ok], by decide⟩

theorem witness_StartupFailureTable :
    (∃ s : State, s.params.layout.wf = true ∧ s.answer 0 = .err e0) ∧
    (∃ s : State, s.params.layout.wf = true ∧ s.answer 0 = .ok ∧ s.answer 1 = .err e0) ∧
    (∃ s : State, s.params.layout.wf = true ∧ s.answer 0 = .ok ∧ s.answer 1 = .ok ∧ s.answer 2 = .err e0) ∧
    ∃ s : State, s.params.layout.wf = true ∧ s.answer 0 = .ok ∧ s.answer 1 = .ok ∧ s.answer 2 = .ok ∧
      s.answer 3 = .err e0 :=
  ⟨⟨bench regs0 [.err e0], by decide⟩, ⟨bench regs0 [.ok, .err e0], by decide⟩,
    ⟨bench regs0 [.ok, .ok, .err e0], by decide⟩, ⟨bench regs0 [.ok, .ok, .ok, .err e0], by decide⟩⟩

theorem witness_StartupFrame : ∃ s t : State, exec .startup s = .next t :=
  ⟨bench regs0 [.ok, .ok, .ok, .ok], _, rfl⟩

theorem witness_ConfigureProgramsTheStream :
    ∃ s : State, s.params.layout.wf = true ∧ s.clk.enFast = true ∧ s.answer 0 = .ok ∧
      (∀ rate ∈ [(1 : Rate), 48000, 144115188075855871], 0 < rate.toNat ∧ rate.toNat < 2 ^ 57) ∧
      fmtVal s.params.layout 16 =
        some (s.params.layout.mode16 ||| fieldPut s.params.layout.align16 2 ||| s.params.layout.ufs ||| s.params.layout.flr) ∧
      fmtVal s.params.layout 24 = some (s.params.layout.mode32 ||| s.params.layout.ufs ||| s.params.layout.flr) :=
  ⟨onOk 1, by decide, by decide, by decide, by norm_num; decide, by decide, by decide⟩

theorem witness_ConfigureFailureTable :
    ((0 : Rate).toNat = 0 ∧ 2 ^ 57 ≤ (144115188075855872 : Rate).toNat) ∧
    (onErr.params.layout.wf = true ∧ onErr.clk.enFast = true ∧ onErr.answer 0 = .err e0) ∧
    ((onOk 1).params.layout.wf = true ∧ (onOk 1).clk.enFast = true ∧ (onOk 1).answer 0 = .ok) ∧
    ((0 : Byte) ≠ 16 ∧ (0 : Byte) ≠ 24 ∧ (0 : Byte) ≠ 32) := by decide

theorem witness_ConfigureFrame : ∃ s t : State, exec (.configure 48000 16 2 true cs48) s = .next t :=
  ⟨onOk 1, _, rfl⟩

theorem witness_MasterTargetIsRateTimes128 :
    0 < (144115188075855871 : Rate).toNat ∧ (144115188075855871 : Rate).toNat < 2 ^ 57 ∧ (onOk 1).clk.enFast = true ∧
      (onOk 1).answer 0 = .ok := by decide

theorem witness_StatusBytesChangeNothingElse :
    (onOk 1).answer 0 = .ok ∧ 0 < (1 : Rate).toNat ∧ (1 : Rate).toNat < 2 ^ 57 := by decide

theorem witness_ChannelStatusReadsBack :
    ((onOk 1).clk.enFast = true ∧ (onOk 1).answer 0 = .ok ∧ 0 < (48000 : Rate).toNat ∧ (48000 : Rate).toNat < 2 ^ 57) ∧
    ∃ (s t : State) (new : List Transaction), step s = .next t ∧ Gains s t new ∧ new.length = 2 ∧
      ∀ x ∈ new, ∀ v, x ≠ .regWrite .csL0 v :=
  ⟨by decide, State.withFetchWord (onOk 0) 32 0x30000001, _,
    [.regUpdateBits .clkctrl 2 2, .regUpdateBits .holdctrl 1 0], rfl, by unfold Gains; decide, rfl, by simp⟩

theorem witness_FormatRegisterAfterConfigure :
    (onOk 1).params.layout.wf = true ∧ (onOk 1).clk.enFast = true ∧ (onOk 1).answer 0 = .ok ∧
      0 < (48000 : Rate).toNat ∧ (48000 : Rate).toNat < 2 ^ 57 := by decide

theorem witness_UnsupportedWidthIsRejected :
    ((onOk 1).clk.enFast = true ∧ (onOk 1).answer 0 = .ok ∧ 0 < (48000 : Rate).toNat ∧ (48000 : Rate).toNat < 2 ^ 57) ∧
      (after (exec (.configure 48000 255 2 true cs48) (onOk 1))).map (·.resp) = some .unsupportedFormatError := by decide

theorem witness_ConfigureMayBeRepeated :
    ∃ s t u : State, exec (.configure 48000 16 2 true cs48) s = .next t ∧ t.resp = .ok ∧ t.refused = false ∧
      exec (.configure 48000 16 2 true cs48) t = .next u ∧ u.resp = .ok :=
  ⟨clocked regs0 .held [.ok, .ok], _, _, rfl, by decide, by decide, rfl, by decide⟩

theorem witness_StartAndStopClass :
    (onOk 0).params.layout.wf = true ∧ (onOk 0).clk.enFast = true ∧ flowing4.params.layout.wf = true ∧
      flowing4.clk.enFast = true := by decide

theorem witness_TriggerFrame : ∃ s t : State, exec .triggerSuspend s = .next t := ⟨flowing4, _, rfl⟩

theorem witness_InvalidTriggerIsRejected :
    ∀ code ∈ [(0x02 : Byte), 0x07, 0xFF],
      code ≠ 0x00 ∧ code ≠ 0x01 ∧ code ≠ 0x03 ∧ code ≠ 0x04 ∧ code ≠ 0x05 ∧ code ≠ 0x06 := by decide

theorem witness_OnlyStartupAndTriggersWriteTheGate :
    ∃ s t : State, exec .startup s = .next t ∧ t.gate ≠ s.gate :=
  ⟨flowing4, _, rfl, by decide⟩

theorem witness_DataNeverFlowsWithoutTheDivider :
    ∃ (s t : State) (before rest : List Transaction), s.params.layout.wf = true ∧ exec .triggerStart s = .next t ∧
      t.fault = none ∧ Gains s t (before ++ rest) ∧ before.length = 1 ∧ dataNeedsDivider s.params.layout s.regs :=
  ⟨onOk 0, _, [.regUpdateBits .clkctrl 2 2], [.regUpdateBits .holdctrl 1 0], by decide, rfl, by decide,
    by unfold Gains; decide, rfl, by unfold dataNeedsDivider; decide⟩

theorem witness_ShutdownAfterAnyStartup : ∃ s t : State, exec .startup s = .next t ∧ t.clk.enFast = true :=
  ⟨bench regs0 [.ok, .ok, .err e0], _, rfl, by decide⟩

theorem witness_RestartAfterShutdown :
    flowing4.params.layout.wf = true ∧ flowing4.gate = .flowing ∧ flowing4.field .divEn = 1 ∧
      flowing4.field .holdEn = 0 ∧ flowing4.answer 0 = .ok ∧ flowing4.answer 1 = .ok ∧ flowing4.answer 2 = .ok ∧
      flowing4.answer 3 = .ok := by decide

theorem witness_UnclockedCommandsSetTheFault :
    needsFast .triggerSuspend = true ∧ needsFast (.configure 1 0 0 false ⟨0, 0, 0, 0⟩) = true ∧
      (bench regs0 []).clk.enFast = false := by decide

theorem witness_ClockedCommandsSetNoFault :
    needsFast (.configure 0 16 2 true cs48) = false ∧ needsFast .startup = false ∧ (onOk 0).clk.enFast = true := by decide

theorem witness_MarksAndTraceAreNeverCleared :
    ∃ s t : State, step s = .next t ∧ s.fault = some (.unclockedRegAccess .clkctrl) ∧ s.refused = true :=
  ⟨{ State.withFetchWord (onOk 1) 32 0x40000000 with fault := some (.unclockedRegAccess .clkctrl), refused := true }, _,
    rfl, by decide, by decide⟩

/-- A step that gains six transactions, for the statements about the trace of a step. -/
theorem witness_TraceExplainsTheDevices :
    ∃ (s t : State) (new : List Transaction), step s = .next t ∧ Gains s t new ∧ new.length = 6 :=
  ⟨State.withFetchWord (onOk 4) 32 0x10000000, _,
    [.clkPrepareEnable .fast .ok, .regUpdateBits .holdctrl 1 1, .clkSetParent .master .masterSelect .ok,
     .clkPrepareEnable .iface .ok, .clkPrepareEnable .master .ok, .regUpdateBits .memctrl 0x100 0x100], rfl,
    by unfold Gains; decide, rfl⟩

/-- A command in which a clock call failed, with a release after it, after an earlier refusal. -/
theorem witness_ClockErrors :
    ∃ (s t : State) (new : List Transaction), exec .startup s = .next t ∧ Gains s t new ∧
      (∃ x ∈ new, x.failed = true) ∧ t.resp = .clockError .enableMaster e0 ∧ t.refused = true :=
  ⟨{ bench regs0 [.ok, .ok, .ok, .err e0] with refused := true }, _,
    [.clkPrepareEnable .fast .ok, .regUpdateBits .holdctrl 1 1, .clkSetParent .master .masterSelect .ok,
     .clkPrepareEnable .iface .ok, .clkPrepareEnable .master (.err e0), .clkDisableUnprepare .iface], rfl,
    by unfold Gains; decide, by decide, by decide, by decide⟩

theorem witness_OnlyConfigureWritesTheLatches :
    (∃ s t : State, exec .triggerStart s = .next t) ∧ ∃ s t : State, step s = .next t :=
  ⟨⟨onOk 0, _, rfl⟩, ⟨onOk 0, _, rfl⟩⟩

theorem witness_LinearModeStaysSet :
    ∃ s t : State, s.params.layout.wf = true ∧ s.field .linear = 1 ∧ step s = .next t :=
  ⟨State.withFetchWord (onOk 0) 32 0x40000000, _, by decide, by decide, rfl⟩

/-- The state after a START, in which each invariant says something: the engine has written `HOLDCTRL`. -/
theorem witness_StepKeepsHoldRecorded :
    ∃ s t : State, s.params.layout.wf = true ∧ HoldRecorded s ∧ s.Clean ∧ s.hasWritten .holdctrl ∧ step s = .next t :=
  ⟨{ State.withFetchWord flowing4 32 0x30000000 with trace := [.regUpdateBits .holdctrl 1 0] }, _, by decide,
    fun _ _ => by decide, by decide, ⟨_, List.mem_singleton_self _, rfl⟩, rfl⟩

theorem witness_StepKeepsFormatLegal :
    ∃ s t : State, s.params.layout.wf = true ∧ FormatLegal s ∧ s.Clean ∧ s.hasWritten .fmtctrl ∧ step s = .next t :=
  ⟨{ State.withFetchWord (clocked ⟨0, 0x100, 1, 0x3042, 0, 0, 0, 0⟩ .held []) 32 0x30000001 with
      trace := [.regUpdateBits .fmtctrl 0x37E3 0x3042] }, _, by decide,
    fun _ _ => by decide, by decide, ⟨_, List.mem_singleton_self _, rfl⟩, rfl⟩

theorem witness_StepKeepsBanksAgree :
    ∃ s t : State, BanksAgree s ∧ s.Clean ∧ s.hasWritten .csL0 ∧ step s = .next t :=
  ⟨{ State.withFetchWord (clocked ⟨0, 0x100, 1, 0, 0x482, 0x482, 2, 2⟩ .held []) 32 0x30000001 with
      trace := [.regWrite .csL0 0x482] }, _, fun _ _ => by decide, by decide, ⟨_, List.mem_singleton_self _, rfl⟩, rfl⟩

theorem witness_StepKeepsParentBeforeEnable :
    ∃ s t : State, ParentBeforeEnable s ∧ s.clk.enMaster = true ∧ step s = .next t :=
  ⟨State.withFetchWord (onOk 0) 32 0x40000000, _, fun _ => rfl, rfl, rfl⟩

/-- STARTUP, then a TRIGGER, then SHUTDOWN, from reset with every call accepted. -/
theorem witness_OrderedHostNeverFaults :
    ∃ s : State, s.fault = none ∧ s.clk.enFast = false ∧ hostKeepsOrder false [.startup, .triggerStart, .shutdown] s := by
  refine ⟨bench regs0 [.ok, .ok, .ok, .ok], by decide, by decide, fun t h => ?_⟩
  have hr : (t.resp == .ok) = true := by
    injection h with h
    subst h
    decide
  rw [hr]
  exact ⟨rfl, fun _ _ _ _ => trivial⟩

end Sys2Proof.Tests
end

section
/-! No clock call is retried (R99): read off the lists of transactions a command can issue (`exec_issued`). -/

namespace Sys2Proof.Machine

/-- R99 on a list of transactions: no fallible clock call stands in it twice, and none stands after one that failed. -/
structure CallsOnce (l : List Transaction) : Prop where
  nodup : (l.filterMap Transaction.call).Nodup
  stops : l.Pairwise fun x y => x.failed = true → y.call = none

/-- Transactions that are no fallible clock calls may follow, whatever was answered before. -/
theorem CallsOnce.append_noCalls {l r : List Transaction} (h : CallsOnce l) (hr : ∀ x ∈ r, x.call = none) :
    CallsOnce (l ++ r) where
  nodup := by
    have hnil : r.filterMap Transaction.call = [] := List.filterMap_eq_nil_iff.mpr hr
    simpa [hnil] using h.nodup
  stops := List.pairwise_append.mpr
    ⟨h.stops, List.pairwise_of_forall_mem_list fun _ _ y hy _ => hr y hy, fun _ _ y hy _ => hr y hy⟩

/-- After a failed call stand no calls, wherever the list is cut. -/
theorem CallsOnce.no_call_after_failed {before after : List Transaction} {x : Transaction}
    (h : CallsOnce (before ++ x :: after)) (hx : x.failed = true) : ∀ y ∈ after, y.call = none := by
  have htail := (List.pairwise_append.mp h.stops).2.1
  exact fun y hy => List.rel_of_pairwise_cons htail hy hx

/-- The cleanup of SELECT_AND_ENABLE issues no fallible clock call (R97). -/
theorem cleanupTrace_noCalls (p : Params) : ∀ x ∈ cleanupTrace p, x.call = none := by
  rcases cleanupTrace_cases p with h | h <;> simp [h, Transaction.call]

/-- Every list a command can issue keeps R99. A failed call of SELECT_AND_ENABLE is followed by its cleanup, every
other failed call is the last transaction. -/
theorem Issued.callsOnce {i : Instr} {s t : State} {new : List Transaction} (h : Issued i s t new) : CallsOnce new := by
  cases h
  case startupErrParent | startupErrIface | startupErrMaster =>
    refine CallsOnce.append_noCalls ?_ (cleanupTrace_noCalls s.params)
    constructor <;> simp [List.filterMap_cons, Transaction.call, Transaction.failed]
  all_goals constructor <;> simp [List.filterMap_cons, Transaction.call, Transaction.failed]

/-- Settles O50, from the transactions a command can issue. -/
theorem noClockCallIsRetried : Obligations.NoClockCallIsRetried := by
  intro i s t new hexec hgains
  have hcalls : CallsOnce new := (exec_issued hexec hgains).callsOnce
  refine ⟨hcalls.nodup, fun before x after hsplit hx => ?_⟩
  subst hsplit
  exact hcalls.no_call_after_failed hx

end Sys2Proof.Machine
end

section
/-! The channel status: what the packing does (R111), and that the four registers give the bytes back and keep them
until the next channel-status write (R115). -/

namespace Sys2Proof.Machine

/-! ### The packing -/

/-- The packing as a concatenation, the earlier byte first (R111). -/
theorem pack16_eq_append (a b : Byte) : pack16 a b = a ++ b := by
  apply BitVec.eq_of_getLsbD_eq
  intro i hi
  rw [pack16_bit a b i hi, BitVec.getLsbD_append]

theorem pack16_toNat (a b : Byte) : (pack16 a b).toNat = 256 * a.toNat + b.toNat := by
  rw [pack16_eq_append, BitVec.toNat_append, ← Nat.shiftLeft_add_eq_or_of_lt b.isLt, Nat.shiftLeft_eq, Nat.mul_comm]

theorem pack16_high (a b : Byte) : (pack16 a b).extractLsb' 8 8 = a := by
  rw [pack16_eq_append]
  exact BitVec.extractLsb'_append_eq_left

theorem pack16_low (a b : Byte) : (pack16 a b).extractLsb' 0 8 = b := by
  rw [pack16_eq_append]
  exact BitVec.extractLsb'_append_eq_right

/-- Settles O30: the packing is the concatenation of its two bytes. -/
theorem packingPutsTheEarlierByteHigh : Obligations.PackingPutsTheEarlierByteHigh :=
  ⟨fun a b => ⟨rfl, pack16_toNat a b, pack16_high a b, pack16_low a b⟩, fun _ => ⟨rfl, rfl⟩⟩

/-- Unpacking undoes the packing (R115). -/
theorem csUnpack_csWords (cs : CsBytes) : csUnpack (csWord0 cs) (csWord1 cs) = cs := by
  simp only [csUnpack, csWord0, csWord1, pack16_high, pack16_low]

/-- The low half of a register that holds a half-word (R34). -/
theorem lowHalf_zeroExtend (w : Half) : (w.zeroExtend 32).extractLsb' 0 16 = w :=
  (BitVec.extractLsb'_setWidth_of_le (by decide)).trans BitVec.extractLsb'_eq_self

/-! ### What CONFIGURE leaves in the channel-status registers -/

/-- The four channel-status registers (R28, R34). -/
def csRegs : List Reg := [.csL0, .csR0, .csL1, .csR1]

theorem rateInRange_of_bounds {rate : Rate} (hpos : 0 < rate.toNat) (hlt : rate.toNat < 2 ^ 57) :
    rateInRange rate = true := by
  simpa [rateInRange] using And.intro hpos hlt

/-- A CONFIGURE that gets as far as CS_WRITE leaves what CS_WRITE put into the channel-status registers, whether or not
FMT_CONFIG then takes the width (R112, R155). -/
theorem own_configure_csRegs {p : Latches} {s : State} (hrate : rateInRange p.rate = true) (hset : s.answer 0 = .ok)
    (hcs : p.csOk = true) {r : Reg} (hr : r ∈ csRegs) :
    (configureFrom 0 (latch p s)).own r =
      if r = .csL0 ∨ r = .csR0 then (csWord0 p.cs).zeroExtend 32 else (csWord1 p.cs).zeroExtend 32 := by
  have hfmt : r ≠ .fmtctrl := by rintro rfl; exact absurd hr (by decide)
  have hwrite : (configureFrom 0 (latch p s)).own r = (csWrite (latch p (stage1 p.rate s))).own r := by
    cases hwidth : fmtVal s.params.layout p.width with
    | none => rw [configure_err_width hrate hset hcs hwidth, own_raise]
    | some v => rw [configure_ok hrate hset hcs hwidth, own_complete, own_updateBits, if_neg hfmt]
  rw [hwrite, own_csWrite, latch_latches]
  simp only [csRegs, List.mem_cons, List.not_mem_nil, or_false] at hr
  rcases hr with rfl | rfl | rfl | rfl <;> simp

/-! ### What keeps the channel-status registers -/

/-- What the trace gains in two stretches it gains in the whole (R29). -/
theorem Gains.trans {s t u : State} {l l' : List Transaction} (h : Gains s t l) (h' : Gains t u l') :
    Gains s u (l ++ l') := by
  unfold Gains at *
  rw [h', h, List.append_assoc]

/-- From `s` to `t` the engine wrote `CS_L0`, or the channel-status registers kept their values. -/
def KeepsStatusUnlessWritten (s t : State) : Prop :=
  ∃ new, Gains s t new ∧ ((∃ v, .regWrite .csL0 v ∈ new) ∨ ∀ r ∈ csRegs, t.own r = s.own r)

namespace KeepsStatusUnlessWritten

theorem refl (s : State) : KeepsStatusUnlessWritten s s := ⟨[], by simp [Gains], .inr fun _ _ => rfl⟩

/-- More transactions that leave the channel-status registers alone. -/
theorem frame {s t u : State} (h : KeepsStatusUnlessWritten s t) (more : ∃ l, Gains t u l)
    (hown : ∀ r ∈ csRegs, u.own r = t.own r) : KeepsStatusUnlessWritten s u := by
  obtain ⟨new, hnew, hcase⟩ := h
  obtain ⟨l, hl⟩ := more
  refine ⟨new ++ l, hnew.trans hl, ?_⟩
  rcases hcase with ⟨v, hv⟩ | hkept
  · exact .inl ⟨v, List.mem_append_left l hv⟩
  · exact .inr fun r hr => (hown r hr).trans (hkept r hr)

/-- More transactions, a write of `CS_L0` among them. -/
theorem written {s t u : State} (h : KeepsStatusUnlessWritten s t) {l : List Transaction} (hl : Gains t u l)
    {v : Word} (hv : .regWrite .csL0 v ∈ l) : KeepsStatusUnlessWritten s u := by
  obtain ⟨new, hnew, -⟩ := h
  exact ⟨new ++ l, hnew.trans hl, .inl ⟨v, List.mem_append_right new hv⟩⟩

variable {s t : State}

/-- A masked update of a control register (R52). -/
theorem updateBits (h : KeepsStatusUnlessWritten s t) {r : Reg} (hr : r ∉ csRegs) (m v : Word) :
    KeepsStatusUnlessWritten s (updateBits r m v t) :=
  h.frame ⟨_, updateBits_trace r m v t⟩ fun r' hr' => by
    rw [own_updateBits, if_neg (by rintro rfl; exact hr hr')]

theorem setGate (h : KeepsStatusUnlessWritten s t) (g : Gate) : KeepsStatusUnlessWritten s (setGate g t) :=
  h.frame ⟨[], by simp [Gains]⟩ fun _ _ => by rw [own_setGate]

theorem foreignActs (h : KeepsStatusUnlessWritten s t) : KeepsStatusUnlessWritten s (foreignActs t) :=
  h.frame ⟨[], by simp [Gains]⟩ fun _ _ => by rw [own_foreignActs]

theorem prepareEnable (h : KeepsStatusUnlessWritten s t) (c : Clk) :
    KeepsStatusUnlessWritten s (prepareEnable c t).2 :=
  h.frame ⟨_, prepareEnable_trace c t⟩ fun _ _ => by rw [own_prepareEnable]

theorem disableUnprepare (h : KeepsStatusUnlessWritten s t) (c : Clk) :
    KeepsStatusUnlessWritten s (disableUnprepare c t) :=
  h.frame ⟨_, disableUnprepare_trace c t⟩ fun _ _ => by rw [own_disableUnprepare]

theorem setRate (h : KeepsStatusUnlessWritten s t) (hz : Rate) : KeepsStatusUnlessWritten s (setRate hz t).2 :=
  h.frame ⟨_, setRate_trace hz t⟩ fun _ _ => by rw [own_setRate]

theorem setParent (h : KeepsStatusUnlessWritten s t) : KeepsStatusUnlessWritten s (setParent t).2 :=
  h.frame ⟨_, setParent_trace t⟩ fun _ _ => by rw [own_setParent]

/-- Every micro-operation but CS_WRITE leaves the channel-status registers alone, and CS_WRITE starts with `CS_L0`
(R112). -/
theorem ops (s : State) : KeptByOps (KeepsStatusUnlessWritten s) where
  bookkeeping t q e p b c h := h.frame ⟨[], by simp [Gains]⟩ fun _ _ => rfl
  acquire t h := acquire_leaves (h.prepareEnable .fast)
  defensiveHold t h := (h.updateBits (by decide) _ _).setGate .held
  selectAndEnable t h :=
    selectAndEnable_leaves (fun _ h => h.setParent) (fun _ c _ h => h.prepareEnable c)
      (fun _ c _ h => h.disableUnprepare c) h
  linearSet t h := h.updateBits (by decide) _ _
  cfgClock t h := cfgClock_leaves ((h.updateBits (by decide) _ _).setRate _)
  csWrite t h := h.written (csWrite_trace t) (List.mem_cons_self ..)
  fmtConfig t h := fmtConfig_leaves (fun _ _ => h.updateBits (by decide) _ _) h
  gateStart t h := ((h.updateBits (by decide) _ _).updateBits (by decide) _ _).setGate .flowing
  gateStop t h := ((h.updateBits (by decide) _ _).updateBits (by decide) _ _).setGate .held
  release t h := ((h.disableUnprepare _).disableUnprepare _).disableUnprepare _

end KeepsStatusUnlessWritten

/-- A step without a write of `CS_L0` keeps the four channel-status registers, from whatever position it goes on. -/
theorem step_keeps_csRegs {s t : State} {new : List Transaction} (hstep : step s = .next t) (hgains : Gains s t new)
    (hno : ∀ x ∈ new, ∀ v, x ≠ .regWrite .csL0 v) : ∀ r ∈ csRegs, t.own r = s.own r := by
  obtain ⟨l, hl, ⟨v, hv⟩ | hkept⟩ :=
    step_keeps (KeepsStatusUnlessWritten.ops s) (fun _ h => h.foreignActs) hstep (.refl s)
  · obtain rfl : new = l := gains_unique hgains hl
    exact absurd rfl (hno _ hv v)
  · exact hkept

/-- Settles O31: CS_WRITE puts the half-words into the low halves, unpacking undoes the packing, and only a CS_WRITE
changes the registers. -/
theorem channelStatusReadsBack : Obligations.ChannelStatusReadsBack := by
  constructor
  · intro s rate width channels cs _ hset hpos hlt
    refine ⟨_, exec_configure rate width channels true cs s, ?_⟩
    have hread {r : Reg} (hr : r ∈ csRegs) :=
      own_configure_csRegs (p := ⟨rate, width, channels, true, cs⟩) (rateInRange_of_bounds hpos hlt) hset rfl hr
    have hL0 := hread (r := .csL0) (by decide)
    have hR0 := hread (r := .csR0) (by decide)
    have hL1 := hread (r := .csL1) (by decide)
    have hR1 := hread (r := .csR1) (by decide)
    simp only [own_csL0, own_csR0, own_csL1, own_csR1, reduceCtorEq, or_false, or_true, if_true, if_false]
      at hL0 hR0 hL1 hR1
    simp only [hL0, hR0, hL1, hR1, lowHalf_zeroExtend, csUnpack_csWords, and_self]
  · intro s t new hstep hgains hno
    have hkept := step_keeps_csRegs hstep hgains hno
    simpa [csRegs] using hkept

end Sys2Proof.Machine
end

section
/-! The format configuration: a successful CONFIGURE shows the format value in every field of `FMTCTRL` that FMT_CONFIG
updates, whatever the register held before (R120 to R124). -/

namespace Sys2Proof.Machine

/-- A field under the mask of a masked update reads the value that was written (R52, R55). -/
theorem field_updateBits_of_subset {s : State} {f : Field} {m : Word} (h : s.params.layout.mask f &&& ~~~m = 0)
    (v : Word) : (updateBits f.reg m v s).field f = fieldGet (s.params.layout.mask f) v := by
  have hreg : (updateBits f.reg m v s).regs.get f.reg = maskedValue ((foreignActs s).regs.get f.reg) m v := by
    simp [updateBits]
  rw [State.field, updateBits_params, hreg, fieldGet_masked_subset h]

/-- Every field of `FMTCTRL` lies under `FMT_MASK`, except that `NON_PCM` may be left out (R33, R121). -/
theorem mask_subset_fmtMask (p : Params) {f : Field} (hreg : f.reg = .fmtctrl) (hpcm : f ≠ .nonPcm) :
    p.layout.mask f &&& ~~~(fmtMask p) = 0 := by
  apply BitVec.eq_of_getLsbD_eq
  intro i hi
  cases f <;> simp_all [fmtMask, Layout.mask, Field.reg]

/-- After a CONFIGURE that succeeds, the fields of `FMTCTRL` read the format value (R122). -/
theorem field_configure_fmtctrl {p : Latches} {s : State} {v : Word} (hrate : rateInRange p.rate = true)
    (hset : s.answer 0 = .ok) (hcs : p.csOk = true) (hv : fmtVal s.params.layout p.width = some v) {f : Field}
    (hreg : f.reg = .fmtctrl) (hpcm : f ≠ .nonPcm) :
    (configureFrom 0 (latch p s)).field f = fieldGet (s.params.layout.mask f) v := by
  have hparams : (csWrite (latch p (stage1 p.rate s))).params = s.params := by simp
  have hunder : (csWrite (latch p (stage1 p.rate s))).params.layout.mask f &&& ~~~(fmtMask s.params) = 0 := by
    rw [hparams]
    exact mask_subset_fmtMask s.params hreg hpcm
  have hread := field_updateBits_of_subset hunder v
  rw [hreg, hparams] at hread
  rw [configure_ok hrate hset hcs hv]
  exact hread

/-- A supported width has a format value (R120). -/
theorem fmtVal_of_supported (L : Layout) {w : Byte} (hw : w = 16 ∨ w = 24 ∨ w = 32) : ∃ v, fmtVal L w = some v := by
  rcases fmtVal_cases L w with ⟨-, h⟩ | ⟨-, h⟩ | ⟨h16, h24, h32, -⟩
  · exact ⟨_, h⟩
  · exact ⟨_, h⟩
  · rcases hw with h | h | h
    · exact absurd h h16
    · exact absurd h h24
    · exact absurd h h32

/-- Settles O32: the fields of `FMTCTRL` read the format value, whose fields `fmtVal_fields` gives. -/
theorem formatRegisterAfterConfigure : Obligations.FormatRegisterAfterConfigure := by
  intro s rate width channels cs hwf _ hset hpos hlt hwidth
  obtain ⟨v, hv⟩ := fmtVal_of_supported s.params.layout hwidth
  refine ⟨_, exec_configure rate width channels true cs s, ?_⟩
  have hread {f : Field} (hreg : f.reg = .fmtctrl) (hpcm : f ≠ .nonPcm) :=
    field_configure_fmtctrl (p := ⟨rate, width, channels, true, cs⟩) (rateInRange_of_bounds hpos hlt) hset rfl hv
      hreg hpcm
  rw [hread (f := .mode16) rfl (by decide), hread (f := .mode32) rfl (by decide),
    hread (f := .align16) rfl (by decide), hread (f := .ufs) rfl (by decide), hread (f := .flr) rfl (by decide)]
  obtain ⟨hmode, hufs, hflr⟩ := fmtVal_fields hwf hv
  rcases hmode with ⟨-, h16, h32, halign⟩ | ⟨hother, h16, h32⟩
  · exact ⟨.inl ⟨h16, h32⟩, fun _ => ⟨h16, halign⟩, hufs, hflr⟩
  · have hne : width ≠ 16 := by rintro rfl; exact absurd hother (by decide)
    exact ⟨.inr ⟨h16, h32⟩, fun h => absurd h hne, hufs, hflr⟩

end Sys2Proof.Machine
end

section
/-! The Playback Gate: each gate sequence sets one field and then clears a field of another register (R134, R135), and
the members of a transport class run the same sequence (R137). -/

namespace Sys2Proof.Machine

/-- Settles O39: the members of a class run the same gate sequence. -/
theorem membersOfAClassAreIndistinguishable : Obligations.MembersOfAClassAreIndistinguishable := by
  intro s
  have hstart {i : Instr} (h : i = .triggerStart ∨ i = .triggerResume ∨ i = .triggerPauseRelease) :
      exec i s = exec .triggerStart s := (exec_startClass h s).trans (exec_startClass (.inl rfl) s).symm
  have hstop {i : Instr} (h : i = .triggerStop ∨ i = .triggerSuspend ∨ i = .triggerPausePush) :
      exec i s = exec .triggerStop s := (exec_stopClass h s).trans (exec_stopClass (.inl rfl) s).symm
  exact ⟨hstart (.inr (.inl rfl)), hstart (.inr (.inr rfl)), hstop (.inr (.inl rfl)), hstop (.inr (.inr rfl))⟩

/-! ### Setting one field, then clearing another -/

/-- The masked update that sets every bit of a field (R130, R132). -/
def setField (f : Field) (s : State) : State := updateBits f.reg (s.params.layout.mask f) (s.params.layout.mask f) s

/-- The masked update that clears a field (R131, R133). -/
def clearField (f : Field) (s : State) : State := updateBits f.reg (s.params.layout.mask f) 0 s

theorem gateStart_eq (s : State) : gateStart s = setGate .flowing (clearField .holdEn (setField .divEn s)) := rfl

theorem gateStop_eq (s : State) : gateStop s = setGate .held (clearField .divEn (setField .holdEn s)) := rfl

/-- A masked update of another register leaves a field (R52). -/
theorem field_updateBits_of_ne {f : Field} {r : Reg} (hpcm : f ≠ .nonPcm) (hreg : f.reg ≠ r) (m v : Word) (s : State) :
    (updateBits r m v s).field f = s.field f :=
  field_congr (updateBits_params r m v s) hpcm (by rw [own_updateBits, if_neg hreg])

/-- After the replay of a masked update that sets a one-bit field, the field reads 1 (R52, R55). -/
theorem fieldGet_replay_set {L : Layout} (hwf : L.wf = true) {f : Field} (hf : oneBit f = true) (b : RegBlock) :
    fieldGet (L.mask f) ((replayRegs [.regUpdateBits f.reg (L.mask f) (L.mask f)] b).get f.reg) = 1 := by
  have hget : (replayRegs [.regUpdateBits f.reg (L.mask f) (L.mask f)] b).get f.reg =
      maskedValue (b.get f.reg) (L.mask f) (L.mask f) := get_set_self b f.reg _
  obtain ⟨lo, hlo, hmask⟩ := wf_oneBit hwf hf
  rw [hget, hmask, fieldGet_set hlo]

/-- The replay of a masked update leaves every other register (R52). -/
theorem get_replay_updateBits_of_ne {r r' : Reg} (h : r' ≠ r) (m v : Word) (b : RegBlock) :
    (replayRegs [.regUpdateBits r m v] b).get r' = b.get r' := get_set_ne b _ h

section
variable {s : State} {f g : Field}

/-- A one-bit field that is set stays set while a field of another register is cleared (R52, R55). -/
theorem field_clearField_setField (hwf : s.params.layout.wf = true) (hf : oneBit f = true) (hpcm : f ≠ .nonPcm)
    (hreg : f.reg ≠ g.reg) :
    (clearField g (setField f s)).field f = 1 ∧ (clearField g (setField f s)).field g = 0 :=
  ⟨(field_updateBits_of_ne hpcm hreg _ _ _).trans (field_set hwf hf), field_clear _ g⟩

/-- With `fast` on, neither update sets the fault mark (R60). -/
theorem fault_clearField_setField (hfast : s.clk.enFast = true) (f g : Field) :
    (clearField g (setField f s)).fault = s.fault := by
  simp [clearField, setField, updateBits_fault, hfast]

theorem gains_clearField_setField (s : State) (f g : Field) :
    Gains s (clearField g (setField f s))
      [.regUpdateBits f.reg (s.params.layout.mask f) (s.params.layout.mask f),
        .regUpdateBits g.reg (s.params.layout.mask g) 0] := by
  simp [Gains, clearField, setField]

end

/-! ### The two gate sequences -/

/-- Settles O35: GATE_START sets `DIV_EN`, then clears `HOLD_EN`. -/
theorem startClassOpensTheGate : Obligations.StartClassOpensTheGate := by
  intro s i hwf hfast hclass
  refine ⟨_, exec_startClass hclass s, ?_⟩
  rw [gateStart_eq]
  have hreg : Field.divEn.reg ≠ Field.holdEn.reg := by decide
  obtain ⟨hdiv, hhold⟩ := field_clearField_setField hwf rfl (by decide) hreg
  exact ⟨hdiv, hhold, rfl, rfl, rfl, fault_clearField_setField hfast .divEn .holdEn, _, _,
    gains_clearField_setField s .divEn .holdEn, rfl, rfl, fieldGet_replay_set (f := .divEn) hwf rfl s.regs,
    congrArg (fieldGet _) (get_replay_updateBits_of_ne hreg.symm _ _ s.regs)⟩

/-- Settles O36: GATE_STOP sets `HOLD_EN`, then clears `DIV_EN`. -/
theorem stopClassClosesTheGate : Obligations.StopClassClosesTheGate := by
  intro s i hwf hfast hclass
  refine ⟨_, exec_stopClass hclass s, ?_⟩
  rw [gateStop_eq]
  have hreg : Field.holdEn.reg ≠ Field.divEn.reg := by decide
  obtain ⟨hhold, hdiv⟩ := field_clearField_setField hwf rfl (by decide) hreg
  exact ⟨hhold, hdiv, rfl, rfl, rfl, fault_clearField_setField hfast .holdEn .divEn, _, _,
    gains_clearField_setField s .holdEn .divEn, rfl, rfl, fieldGet_replay_set (f := .holdEn) hwf rfl s.regs,
    congrArg (fieldGet _) (get_replay_updateBits_of_ne hreg.symm _ _ s.regs)⟩

end Sys2Proof.Machine
end

section
/-! A STARTUP after a SHUTDOWN: RELEASE keeps every field of the engine, and a STARTUP whose four clock calls succeed
acts on the engine's bits outside `MEMCTRL` as HOLD_SET alone (R150, R163, R214). -/

namespace Sys2Proof.Machine

/-! ### What SHUTDOWN leaves -/

@[simp] theorem own_release (s : State) : (release s).own = s.own := by simp [release]

@[simp] theorem answer_release (s : State) : (release s).answer = s.answer := by simp [release]

@[simp] theorem release_params (s : State) : (release s).params = s.params := by simp [release]

@[simp] theorem release_gate (s : State) : (release s).gate = s.gate := by simp [release]

/-- SHUTDOWN keeps every field that belongs to the engine under both readings of `NON_PCM` (R163). -/
theorem field_shutdown (s : State) {f : Field} (hpcm : f ≠ .nonPcm) : (complete (release s)).field f = s.field f :=
  field_congr (by simp) hpcm (by simp)

/-! ### A STARTUP whose four clock calls succeed -/

section
variable {s : State} (h0 : s.answer 0 = .ok) (h1 : s.answer 1 = .ok) (h2 : s.answer 2 = .ok) (h3 : s.answer 3 = .ok)
include h0 h1 h2 h3

theorem startup_ok_params : (startupFrom 1 s).params = s.params := by
  simp [startup_ok h0 h1 h2 h3, linearSet, defensiveHold, holdSet]

theorem startup_ok_gate : (startupFrom 1 s).gate = .held := by
  simp [startup_ok h0 h1 h2 h3, linearSet, defensiveHold]

theorem startup_ok_resp : (startupFrom 1 s).resp = .ok := by rw [startup_ok h0 h1 h2 h3, complete_resp]

/-- Outside `MEMCTRL` the engine's bits are those that HOLD_SET alone would leave (R150, R153). -/
theorem own_startup_ok {r : Reg} (hr : r ≠ .memctrl) : (startupFrom 1 s).own r = (setField .holdEn s).own r := by
  simp [startup_ok h0 h1 h2 h3, linearSet, defensiveHold, holdSet, setField, Field.reg, Layout.mask, own_updateBits, hr]

theorem field_startup_ok {f : Field} (hpcm : f ≠ .nonPcm) (hreg : f.reg ≠ .memctrl) :
    (startupFrom 1 s).field f = (setField .holdEn s).field f :=
  field_congr ((startup_ok_params h0 h1 h2 h3).trans (updateBits_params ..).symm) hpcm
    (own_startup_ok h0 h1 h2 h3 hreg)

/-- The hold is set, whatever the registers held before (R153). -/
theorem holdEn_startup_ok (hwf : s.params.layout.wf = true) : (startupFrom 1 s).field .holdEn = 1 :=
  (field_startup_ok h0 h1 h2 h3 (by decide) (by decide)).trans (field_set (f := .holdEn) hwf rfl)

/-- The divider enable is left as it was found (R150). -/
theorem divEn_startup_ok : (startupFrom 1 s).field .divEn = s.field .divEn :=
  (field_startup_ok h0 h1 h2 h3 (by decide) (by decide)).trans
    (field_updateBits_of_ne (by decide) (by decide) _ _ s)

/-- The six transactions of a STARTUP that succeeds (R150). -/
theorem gains_startup_ok :
    Gains s (startupFrom 1 s)
      [.clkPrepareEnable .fast .ok, .regUpdateBits .holdctrl s.params.layout.holdEn s.params.layout.holdEn,
        .clkSetParent .master .masterSelect .ok, .clkPrepareEnable .iface .ok, .clkPrepareEnable .master .ok,
        .regUpdateBits .memctrl s.params.layout.linear s.params.layout.linear] := by
  simp [Gains, startup_ok h0 h1 h2 h3, linearSet, defensiveHold, holdSet, h0, h1, h2, h3]

end

/-- Settles O45: SHUTDOWN keeps the gate, the fields and the answers to come, and the STARTUP after it touches `DIV_EN`
in none of its transactions, whatever registers it finds. -/
theorem restartAfterShutdownLeavesTheDivider : Obligations.RestartAfterShutdownLeavesTheDivider := by
  intro s hwf hgate hdiv hhold h0 h1 h2 h3
  refine ⟨_, exec_shutdown s, by simpa using hgate, (field_shutdown s (by decide)).trans hdiv,
    (field_shutdown s (by decide)).trans hhold, fun b => ?_⟩
  have hanswer : State.answer { complete (release s) with regs := b } = s.answer := answer_release s
  rw [← hanswer] at h0 h1 h2 h3
  have hlayout : (complete (release s)).params.layout = s.params.layout := by simp
  exact ⟨_, _, exec_startup _, startup_ok_gate h0 h1 h2 h3, holdEn_startup_ok h0 h1 h2 h3 (hlayout ▸ hwf),
    (divEn_startup_ok h0 h1 h2 h3).trans (congrArg (fun L : Layout => fieldGet L.divEn b.clkctrl) hlayout),
    startup_ok_resp h0 h1 h2 h3, gains_startup_ok h0 h1 h2 h3, by simp [Transaction.target]⟩

end Sys2Proof.Machine
end

section
/-! The command encoding: the decoder inverted once (`decode_ok_iff`), and read off it that decoding and encoding agree,
which words are accepted and what a transport code means (R71 to R78). -/

namespace Sys2Proof

/-- A command word with no argument bits: its upper 24 bits (R71). -/
theorem and_upperBits (w : Word) : w &&& 0xFFFFFF00 = mkCw (cwOpc w) (cwRsv w) 0 := by
  have hmask : (0xFFFFFF00 : Word) = mkCw (BitVec.allOnes 4) (BitVec.allOnes 20) 0 := by decide
  apply BitVec.eq_of_getLsbD_eq
  intro i hi
  have hw : w.getLsbD i = (mkCw (cwOpc w) (cwRsv w) (cwArg w)).getLsbD i := by rw [mkCw_fields]
  rw [hmask, BitVec.getLsbD_and, hw]
  simp only [mkCw_bit, BitVec.getLsbD_allOnes]
  by_cases h8 : i < 8
  · simp [h8]
  · by_cases h28 : i < 28
    · simp [h8, h28, show i - 8 < 20 by omega]
    · simp [h8, h28, show i - 28 < 4 by omega]

/-- The TRIGGER word that carries a code (R71, R72). -/
theorem triggerWord_eq (code : Byte) : (0x30000000 : Word) ||| code.zeroExtend 32 = mkCw 0x3 0 code := by
  have hbase : (0x30000000 : Word) = mkCw 0x3 0 0 := by decide
  apply BitVec.eq_of_getLsbD_eq
  intro i hi
  rw [hbase, BitVec.getLsbD_or]
  simp only [mkCw_bit, BitVec.truncate_eq_setWidth, BitVec.getLsbD_setWidth, hi, decide_true, Bool.true_and]
  by_cases h8 : i < 8
  · simp [h8]
  · simp [h8, BitVec.getLsbD_of_ge code i (by omega)]

/-- The words that spell a command, each with the command it spells (R72, R77). -/
theorem decode_ok_iff {cw : Word} {pb : ParamBlock} {i : Instr} :
    decode cw pb = .ok i ↔
      (cw = mkCw 0x1 0 0 ∧ i = .startup) ∨ (cw = mkCw 0x2 0 0 ∧ i = configureOf pb) ∨
      (∃ code, cw = mkCw 0x3 0 code ∧ i = .trigger (tcOfCode code)) ∨ (cw = mkCw 0x4 0 0 ∧ i = .shutdown) := by
  constructor
  · intro h
    unfold decode at h
    split_ifs at h with hrsv h1 harg h2 harg h3 h4 harg <;> injection h with h <;> subst h <;>
      have hrsv := not_not.mp hrsv
    · exact .inl ⟨cw_eq_mkCw h1 hrsv harg, rfl⟩
    · exact .inr (.inl ⟨cw_eq_mkCw h2 hrsv harg, rfl⟩)
    · exact .inr (.inr (.inl ⟨cwArg cw, cw_eq_mkCw h3 hrsv rfl, rfl⟩))
    · exact .inr (.inr (.inr ⟨cw_eq_mkCw h4 hrsv harg, rfl⟩))
  · rintro (⟨rfl, rfl⟩ | ⟨rfl, rfl⟩ | ⟨code, rfl, rfl⟩ | ⟨rfl, rfl⟩) <;> simp [decode]

/-- A code that names no transport command stands for itself (R73). -/
theorem tcOfCode_other {code : Byte} (h : namedTransportCodes.contains code = false) : tcOfCode code = .other code := by
  simp only [namedTransportCodes, List.contains_cons, List.contains_nil, Bool.or_false, Bool.or_eq_false_iff,
    beq_eq_false_iff_ne] at h
  obtain ⟨h0, h1, h3, h4, h5, h6⟩ := h
  simp only [tcOfCode, if_neg h0, if_neg h1, if_neg h3, if_neg h4, if_neg h5, if_neg h6]

/-- The codes of R73, with the command each names; any other code is an invalid TRIGGER. -/
theorem trigger_tcOfCode_cases (code : Byte) :
    (code = 0 ∧ Instr.trigger (tcOfCode code) = .triggerStop) ∨
    (code = 1 ∧ Instr.trigger (tcOfCode code) = .triggerStart) ∨
    (code = 3 ∧ Instr.trigger (tcOfCode code) = .triggerPausePush) ∨
    (code = 4 ∧ Instr.trigger (tcOfCode code) = .triggerPauseRelease) ∨
    (code = 5 ∧ Instr.trigger (tcOfCode code) = .triggerSuspend) ∨
    (code = 6 ∧ Instr.trigger (tcOfCode code) = .triggerResume) ∨
    (namedTransportCodes.contains code = false ∧ Instr.trigger (tcOfCode code) = .triggerInvalid code) := by
  cases h : namedTransportCodes.contains code
  · simp [tcOfCode_other h, Instr.trigger]
  · simp only [List.contains_iff_mem, namedTransportCodes, List.mem_cons, List.not_mem_nil, or_false] at h
    rcases h with rfl | rfl | rfl | rfl | rfl | rfl <;> decide

/-- Settles O1: the word that `encode` puts together is one that `decode_ok_iff` reads as the command. -/
theorem encodeThenDecodeGivesTheCommand : Obligations.EncodeThenDecodeGivesTheCommand := by
  intro i hwf
  rw [decode_ok_iff]
  cases i
  case startup => exact .inl ⟨rfl, rfl⟩
  case configure => exact .inr (.inl ⟨rfl, by simp [encode, configureOf]⟩)
  case shutdown => exact .inr (.inr (.inr ⟨rfl, rfl⟩))
  case triggerInvalid code =>
    have hother : namedTransportCodes.contains code = false := by simpa [Instr.wellFormed] using hwf
    exact .inr (.inr (.inl ⟨code, rfl, by rw [tcOfCode_other hother, Instr.trigger]⟩))
  all_goals exact .inr (.inr (.inl ⟨_, rfl, rfl⟩))

/-- Settles O2: each word of `decode_ok_iff` is the one `encode` gives its command. -/
theorem decodeThenEncodeGivesThePresentation : Obligations.DecodeThenEncodeGivesThePresentation := by
  intro cw pb i h
  have hconf : (0x20000000 : Word) = mkCw 0x2 0 0 := by decide
  rcases decode_ok_iff.mp h with ⟨rfl, rfl⟩ | ⟨rfl, rfl⟩ | ⟨code, rfl, rfl⟩ | ⟨rfl, rfl⟩
  · exact ⟨rfl, rfl, (if_neg (by decide)).symm⟩
  · exact ⟨rfl, rfl, by rw [if_pos hconf.symm]; simp [encode, configureOf]⟩
  · have hne : mkCw 0x3 0 code ≠ 0x20000000 := fun e => by
      have := congrArg cwOpc (e.trans hconf)
      simp at this
    rw [if_neg hne]
    rcases trigger_tcOfCode_cases code with ⟨rfl, e⟩ | ⟨rfl, e⟩ | ⟨rfl, e⟩ | ⟨rfl, e⟩ | ⟨rfl, e⟩ | ⟨rfl, e⟩ | ⟨hc, e⟩
      <;> rw [e]
    case inr.inr.inr.inr.inr.inr => exact ⟨by simp only [Instr.wellFormed, hc, Bool.not_false], rfl, rfl⟩
    all_goals exact ⟨rfl, rfl, rfl⟩
  · exact ⟨rfl, rfl, (if_neg (by decide)).symm⟩

/-- The words of TRIGGER are those with its upper 24 bits (R72). -/
theorem exists_triggerWord_iff (cw : Word) : (∃ code, cw = mkCw 0x3 0 code) ↔ cw &&& 0xFFFFFF00 = 0x30000000 := by
  have hbase : (0x30000000 : Word) = mkCw 0x3 0 0 := by decide
  rw [and_upperBits, hbase]
  constructor
  · rintro ⟨code, rfl⟩
    simp
  · intro h
    have hopc : cwOpc cw = 0x3 := by simpa using congrArg cwOpc h
    have hrsv : cwRsv cw = 0 := by simpa using congrArg cwRsv h
    exact ⟨cwArg cw, cw_eq_mkCw hopc hrsv rfl⟩

/-- Settles O3, from `decode_ok_iff`. -/
theorem acceptedCommandWords : Obligations.AcceptedCommandWords := by
  intro cw pb
  have h1 : (0x10000000 : Word) = mkCw 0x1 0 0 := by decide
  have h2 : (0x20000000 : Word) = mkCw 0x2 0 0 := by decide
  have h4 : (0x40000000 : Word) = mkCw 0x4 0 0 := by decide
  rw [← exists_triggerWord_iff, h1, h2, h4]
  constructor
  · rintro ⟨i, hi⟩
    rcases decode_ok_iff.mp hi with ⟨e, -⟩ | ⟨e, -⟩ | ⟨code, e, -⟩ | ⟨e, -⟩
    · exact .inl e
    · exact .inr (.inl e)
    · exact .inr (.inr (.inl ⟨code, e⟩))
    · exact .inr (.inr (.inr e))
  · rintro (e | e | ⟨code, e⟩ | e)
    · exact ⟨_, decode_ok_iff.mpr (.inl ⟨e, rfl⟩)⟩
    · exact ⟨_, decode_ok_iff.mpr (.inr (.inl ⟨e, rfl⟩))⟩
    · exact ⟨_, decode_ok_iff.mpr (.inr (.inr (.inl ⟨code, e, rfl⟩)))⟩
    · exact ⟨_, decode_ok_iff.mpr (.inr (.inr (.inr ⟨e, rfl⟩)))⟩

/-- The TRIGGER word with a code decodes to the command that the code names (R73, R77). -/
theorem decode_triggerWord (code : Byte) (pb : ParamBlock) :
    decode (0x30000000 ||| code.zeroExtend 32) pb = .ok (.trigger (tcOfCode code)) :=
  decode_ok_iff.mpr (.inr (.inr (.inl ⟨code, triggerWord_eq code, rfl⟩)))

/-- Settles O4: the table of R73, code by code. -/
theorem transportCodesDecodeByTheTable : Obligations.TransportCodesDecodeByTheTable := by
  intro code pb
  rw [decode_triggerWord]
  congr 1
  rcases trigger_tcOfCode_cases code with ⟨rfl, e⟩ | ⟨rfl, e⟩ | ⟨rfl, e⟩ | ⟨rfl, e⟩ | ⟨rfl, e⟩ | ⟨rfl, e⟩ | ⟨hc, e⟩
  case inr.inr.inr.inr.inr.inr =>
    have hne (k : Byte) (hk : namedTransportCodes.contains k = true) : code.toNat ≠ k.toNat := fun e => by
      rw [BitVec.eq_of_toNat_eq e, hk] at hc
      cases hc
    have h0 := hne 0 rfl
    have h1 := hne 1 rfl
    have h3 := hne 3 rfl
    have h4 := hne 4 rfl
    have h5 := hne 5 rfl
    have h6 := hne 6 rfl
    rw [e]
    split
    case h_7 => rfl
    all_goals contradiction
  all_goals rfl

/-- Settles O5: the six words and the refused one are decoded bit by bit. -/
theorem writtenOutWordsDecode : Obligations.WrittenOutWordsDecode := by
  unfold Obligations.WrittenOutWordsDecode
  decide

end Sys2Proof

namespace Sys2Proof.Machine

theorem stageOfNumber_number (stage : ClkStage) : stageOfNumber stage.number = some stage := by cases stage <;> rfl

theorem number_of_stageOfNumber {n : BitVec 4} {stage : ClkStage} (h : stageOfNumber n = some stage) :
    n = stage.number := by
  unfold stageOfNumber at h
  split_ifs at h with h1 h2 h3 h4 h5 <;> injection h with h <;> subst h <;> assumption

/-- Settles O6: by cases on the response one way, on the fields that are read the other. -/
theorem responseFieldsReadBack : Obligations.ResponseFieldsReadBack := by
  constructor
  · intro r
    cases r
    case clockError stage e => simp [respOfFields, Resp.code, Resp.stage, Resp.payload, stageOfNumber_number]
    all_goals rfl
  · intro code stage payload r h
    unfold respOfFields at h
    cases payload with
    | some e =>
      simp only [Option.ite_none_right_eq_some, Option.map_eq_some_iff] at h
      obtain ⟨hcode, st, hst, rfl⟩ := h
      exact ⟨hcode, number_of_stageOfNumber hst, rfl⟩
    | none =>
      dsimp only at h
      split_ifs at h with hstage h0 h2 h3 h4 h15 <;> injection h with h <;> subst h <;>
        exact ⟨by assumption, not_not.mp hstage, rfl⟩

/-- Settles O38: the code names no transport command, and the dispatch raises at once. -/
theorem invalidTriggerIsRejected : Obligations.InvalidTriggerIsRejected := by
  intro s code pb h0 h1 h3 h4 h5 h6
  have hother : namedTransportCodes.contains code = false := by
    simpa [namedTransportCodes] using And.intro h0 ⟨h1, h3, h4, h5, h6⟩
  exact ⟨by rw [decode_triggerWord, tcOfCode_other hother, Instr.trigger], exec_triggerInvalid code s⟩

end Sys2Proof.Machine
end

section
/-! Fields, the layout and the two register transactions: put and get for every run of ones (R55), addresses (R56, R59),
the masked update and the whole write (R52 to R54), and the foreign agents (R63). -/

namespace Sys2Proof.Machine

/-! ### Runs of ones -/

/-- The bits of a run of ones. -/
theorem runMask_bit {lo len i : Nat} (h : lo + len ≤ 32) :
    (runMask lo len).getLsbD i = decide (lo ≤ i ∧ i < lo + len) := by
  rw [runMask, BitVec.getLsbD_ofNat, Nat.testBit_mul_two_pow, Nat.testBit_two_pow_sub_one]
  rcases Nat.lt_or_ge i 32 with hi | hi
  · simp only [hi, decide_true, Bool.true_and]
    by_cases hlo : lo ≤ i
    · simp [hlo, show i - lo < len ↔ i < lo + len by omega]
    · simp [hlo]
  · simp [show ¬ i < 32 by omega, show ¬ i < lo + len by omega]

/-- The lowest bit of a run of ones is where it begins. -/
theorem lowestSetBit_runMask {lo len : Nat} (hlen : 0 < len) (h : lo + len ≤ 32) :
    lowestSetBit (runMask lo len) = lo := by
  have hfind : (List.range 32).find? (fun i => (runMask lo len).getLsbD i) = some lo := by
    rw [List.find?_range_eq_some]
    simp only [runMask_bit h, decide_eq_true_eq, List.mem_range, Bool.not_eq_true', decide_eq_false_iff_not]
    exact ⟨by omega, by omega, fun j hj => by omega⟩
  rw [lowestSetBit, hfind, Option.getD_some]

/-- A field of a run of ones reads the bits of the run. -/
theorem fieldGet_runMask_bit {lo len : Nat} (hlen : 0 < len) (h : lo + len ≤ 32) (w : Word) (i : Nat) :
    (fieldGet (runMask lo len) w).getLsbD i = (decide (i < len) && w.getLsbD (lo + i)) := by
  rw [fieldGet, lowestSetBit_runMask hlen h, BitVec.getLsbD_ushiftRight, BitVec.getLsbD_and, runMask_bit h,
    Bool.and_comm]
  simp

theorem fieldPut_runMask_bit {lo len : Nat} (hlen : 0 < len) (h : lo + len ≤ 32) (x : Word) (i : Nat) :
    (fieldPut (runMask lo len) x).getLsbD i = (decide (lo ≤ i ∧ i < lo + len) && x.getLsbD (i - lo)) := by
  rw [fieldPut, lowestSetBit_runMask hlen h, BitVec.getLsbD_and, BitVec.getLsbD_shiftLeft, runMask_bit h, Bool.and_comm]
  by_cases hi : lo ≤ i ∧ i < lo + len
  · simp [hi, show i < 32 by omega]
  · simp [hi]

/-- Settles O12, bit by bit. -/
theorem fieldPutThenGet : Obligations.FieldPutThenGet := by
  intro lo len x w hlen h hx
  refine ⟨?_, by simp [fieldPut, BitVec.and_assoc], Nat.lt_pow_two_of_testBit _ fun i hi => ?_⟩
  · apply BitVec.eq_of_getLsbD_eq
    intro i hi
    rw [fieldGet_runMask_bit hlen h, fieldPut_runMask_bit hlen h]
    by_cases hin : i < len
    · simp [hin]
    · have hlt : x.toNat < 2 ^ i := hx.trans_le (Nat.pow_le_pow_right (by decide) (by omega))
      have hxi : x.getLsbD i = false := Nat.testBit_lt_two_pow hlt
      simp [hin, hxi]
  · show (fieldGet (runMask lo len) w).getLsbD i = false
    rw [fieldGet_runMask_bit hlen h]
    simp [Nat.not_lt.mpr hi]

/-! ### Addresses -/

/-- Settles O13: the eight addresses of a well-formed layout differ. -/
theorem addressesTellRegistersApart : Obligations.AddressesTellRegistersApart := by
  intro L hwf r a
  constructor
  · intro h
    simpa using List.find?_some h
  · rintro rfl
    cases hfind : L.regAt (L.addr r) with
    | none =>
      have hnone := List.find?_eq_none.mp hfind r (Reg.mem_all r)
      simp at hnone
    | some r' =>
      have haddr : L.addr r' = L.addr r := by simpa using List.find?_some hfind
      rw [wf_addr_inj hwf haddr]

/-- Settles O14, by evaluation. -/
theorem referenceLayoutIsWellFormed : Obligations.ReferenceLayoutIsWellFormed := by
  unfold Obligations.ReferenceLayoutIsWellFormed
  decide

/-! ### The two register transactions -/

theorem updateBits_regs (r : Reg) (m v : Word) (s : State) :
    (updateBits r m v s).regs = (foreignActs s).regs.set r (maskedValue ((foreignActs s).regs.get r) m v) := by
  simp [updateBits]

theorem write_regs (r : Reg) (v : Word) (s : State) : (write r v s).regs = (foreignActs s).regs.set r v := by
  simp [write]

/-- Settles O15: under the mask the value, outside it the old bits, and with `fast` on no mark. -/
theorem updateBitsIsTheMaskedUpdate : Obligations.UpdateBitsIsTheMaskedUpdate := by
  intro s r m v hfast
  rw [updateBits_regs, get_set_self]
  refine ⟨maskedValue_subset (BitVec.and_not_self m) _ v, maskedValue_disjoint ?_ _ v,
    fun r' hr => get_set_ne _ _ hr, ?_⟩
  · rw [BitVec.and_comm]; exact BitVec.and_not_self m
  · rw [updateBits, markUnclocked_fast (by simpa using hfast)]
    simp [emit]

/-- Settles O16: the register is set, and with `fast` on there is no mark. -/
theorem writeReplacesTheWholeRegister : Obligations.WriteReplacesTheWholeRegister := by
  intro s r v hfast
  rw [write_regs]
  refine ⟨get_set_self .., fun r' hr => get_set_ne _ _ hr, ?_⟩
  rw [write, markUnclocked_fast (by simpa using hfast)]
  simp [emit]

/-- A masked update of the engine's bits, repeated under the same mask (R54). -/
theorem maskedValue_again (old m v o : Word) :
    maskedValue (maskedValue old m v &&& o) m v &&& o = maskedValue old m v &&& o := by
  apply BitVec.eq_of_getLsbD_eq
  intro i hi
  cases hm : m[i] <;> cases ho : o[i] <;> simp [maskedValue, hm, ho, hi]

/-- Settles O17: the second issue writes the same value over the same mask, and finds the mark set. -/
theorem registerTransactionsAreIdempotent : Obligations.RegisterTransactionsAreIdempotent := by
  intro s r r' m v
  refine ⟨?_, ?_, ?_, ?_, by simp, by simp⟩
  · simp only [own_updateBits, updateBits_params, if_true]
    split
    · exact maskedValue_again ..
    · rfl
  · simp only [own_write, write_params]
    split <;> rfl
  · cases hfast : s.clk.enFast <;> simp [updateBits_fault, hfast]
  · cases hfast : s.clk.enFast <;> simp [write_fault, hfast]

/-! ### The foreign agents -/

/-- A turn changes the registers and the foreign agents' own inputs (R63). -/
theorem foreignActs_eq (s : State) :
    foreignActs s = { s with
      regs := (foreignActs s).regs,
      env := { s.env with
        foreignFlips := (foreignActs s).env.foreignFlips, foreignDrawn := (foreignActs s).env.foreignDrawn } } := by
  simp only [foreignActs, drawForeign]
  split <;> rfl

/-- The change that gives a register the wanted foreign bits. -/
theorem foreignValue_reaches (own old want : Word) :
    foreignValue own old (old ^^^ want) &&& ~~~own = want &&& ~~~own := by
  apply BitVec.eq_of_getLsbD_eq
  intro i hi
  cases ho : own[i] <;> simp [foreignValue, ho, hi]

/-- The change of the four control registers that gives the wanted foreign bits. -/
def flipTo (want b : RegBlock) : ForeignFlip :=
  ⟨b.clkctrl ^^^ want.clkctrl, b.memctrl ^^^ want.memctrl, b.holdctrl ^^^ want.holdctrl, b.fmtctrl ^^^ want.fmtctrl⟩

/-- Settles O18: own bits by `own_foreignActs`, and `flipTo` for the foreign bits that are wanted. -/
theorem foreignAgentsChangeForeignBitsOnly : Obligations.ForeignAgentsChangeForeignBitsOnly := by
  refine ⟨fun s r => by rw [own_foreignActs], fun s => ⟨foreignActs_eq s, ?_⟩, fun s want =>
    ⟨flipTo want s.regs, fun r hr => ?_⟩⟩
  · have hown := own_foreignActs s
    rw [← own_csL0, ← own_csR0, ← own_csL1, ← own_csR1, hown]
    simp
  · rcases hr with rfl | rfl | rfl | rfl <;> exact foreignValue_reaches ..

end Sys2Proof.Machine
end

section
/-! The step: what it runs (R75), that it always completes and idles, and the reset (R200 to R204). -/

namespace Sys2Proof.Machine

/-- An outcome has one next state. -/
theorem next_unique {o : Host.Outcome State Fault Refusal} {t u : State} (h : o = .next t) (h' : o = .next u) : t = u :=
  Host.Outcome.next.inj (h.symm.trans h')

/-! ### The next action -/

/-- An idle engine takes the first presentation off the port (R75). -/
theorem nextAction_of_command {s : State} {c : Presented} {rest : List Presented} {i : Instr} (hseq : s.seq = .idle)
    (hport : s.env.commands = c :: rest) (hdec : decode c.cw c.pb = .ok i) :
    nextAction s = .run i { s with env := { s.env with commands := rest } } := by
  simp only [nextAction, hseq, hport, hdec]

theorem nextAction_of_illegalWord {s : State} {c : Presented} {rest : List Presented} {e : DecodeError}
    (hseq : s.seq = .idle) (hport : s.env.commands = c :: rest) (hdec : decode c.cw c.pb = .error e) :
    nextAction s = .illegal { s with env := { s.env with commands := rest } } := by
  simp only [nextAction, hseq, hport, hdec]

/-- A step that finds a command at the port runs it (R75). -/
theorem step_of_run {s t : State} {i : Instr} (h : nextAction (foreignActs s) = .run i t) : step s = exec i t := by
  simp only [step, h]

theorem step_of_illegal {s t : State} (h : nextAction (foreignActs s) = .illegal t) :
    step s = .next (refuseIllegal t) := by
  simp only [step, h]

/-- A presentation is not seen by the foreign agents (R63). -/
theorem foreignActs_present (c : Presented) (s : State) :
    foreignActs (present c s) =
      { foreignActs { s with seq := .idle } with
        env := { (foreignActs { s with seq := .idle }).env with
          commands := c :: (foreignActs { s with seq := .idle }).env.commands } } := by
  simp only [foreignActs, drawForeign, present]
  split <;> rfl

/-- A step takes the command that the host has just presented, whatever else is at the port (R75). -/
theorem step_present {s : State} {c : Presented} {i : Instr} (hdec : decode c.cw c.pb = .ok i) :
    step (present c s) = exec i (foreignActs { s with seq := .idle }) := by
  apply step_of_run
  rw [foreignActs_present, nextAction_of_command (by simp) rfl hdec]

/-- A table word decodes as the presentation it stands for. -/
theorem decode_of_decodeTableWord {nbits w : Nat} {i : Instr} (h : decodeTableWord nbits w = some i) :
    decode (presentedOfTableWord nbits w).cw (presentedOfTableWord nbits w).pb = .ok i := by
  unfold decodeTableWord at h
  split_ifs at h
  split at h
  · injection h with h
    subst h
    assumption
  · cases h

/-- Settles O7, from the action the engine takes after the foreign agents' turn. -/
theorem stepRunsTheDecodedCommand : Obligations.StepRunsTheDecodedCommand := by
  constructor
  · intro s c rest i hseq hport hdec
    exact step_of_run (nextAction_of_command (by simpa using hseq) (by simpa using hport) hdec)
  · intro s nbits w i h
    exact step_present (decode_of_decodeTableWord h)

/-- Settles O8: the three actions that run no presented command. -/
theorem stepWithoutACommand : Obligations.StepWithoutACommand := by
  refine ⟨fun s c rest e hseq hport hdec => ?_, fun s hseq hport => ?_, fun s op k hseq => ?_⟩
  · exact step_of_illegal (nextAction_of_illegalWord (by simpa using hseq) (by simpa using hport) hdec)
  · have hact : nextAction (foreignActs s) = .wait := by simp [nextAction, hseq, hport]
    simp only [step, hact]
  · have hact : nextAction (foreignActs s) = .goOn op k := by simp [nextAction, hseq]
    simp only [step, hact]

/-! ### Every step completes -/

/-- Every command is its steps from the first on, after its operands are latched (R22, R75). -/
theorem exec_resumes (i : Instr) (s : State) :
    ∃ op q p, exec i s = .next (resumeCommand op 1 { s with seq := q, latches := p }) := by
  cases i
  case startup => exact ⟨.startup, s.seq, s.latches, rfl⟩
  case configure rate width channels csOk cs => exact ⟨.configure, _, _, rfl⟩
  case shutdown => exact ⟨.shutdown, s.seq, s.latches, rfl⟩
  all_goals exact ⟨.trigger _, s.seq, s.latches, rfl⟩

/-- A command ends with the engine idle, wherever it goes on (R22). -/
theorem resumeCommand_seq (op : Op) (k : Nat) (s : State) : (resumeCommand op k s).seq = .idle := by
  cases op
  case configure =>
    show (configureFrom k s).seq = .idle
    unfold configureFrom
    split
    · rfl
    · exact runSteps_seq ..
  all_goals exact runSteps_seq ..

/-- All that a step can be, after the foreign agents' turn: a wait, a refusal of an illegal word, or a command from
some step on, with the operands and the port at some values (R75, R175, R204). -/
theorem step_cases (s : State) :
    (s.seq = .idle ∧ step s = .next (foreignActs s)) ∨
    (∃ c, s.seq = .idle ∧
      step s = .next (refuseIllegal { foreignActs s with env := { (foreignActs s).env with commands := c } })) ∨
    ∃ op k q p c, step s = .next (resumeCommand op k
      { foreignActs s with seq := q, latches := p, env := { (foreignActs s).env with commands := c } }) := by
  cases hact : nextAction (foreignActs s) with
  | goOn op k =>
    exact .inr (.inr ⟨op, k, (foreignActs s).seq, (foreignActs s).latches, (foreignActs s).env.commands,
      by simp only [step, hact]⟩)
  | wait =>
    refine .inl ⟨?_, by simp only [step, hact]⟩
    cases hseq : s.seq with
    | idle => rfl
    | busy op k => simp [nextAction, hseq] at hact
  | run i t =>
    obtain ⟨c, rest, -, -, -, rfl⟩ := nextAction_run hact
    obtain ⟨op, q, p, h⟩ := exec_resumes i { foreignActs s with env := { (foreignActs s).env with commands := rest } }
    exact .inr (.inr ⟨op, 1, q, p, rest, (step_of_run hact).trans h⟩)
  | illegal t =>
    obtain ⟨c, rest, e, hseq, -, -, rfl⟩ := nextAction_illegal hact
    exact .inr (.inl ⟨rest, by simpa using hseq, step_of_illegal hact⟩)

/-- Settles O9, from the cases of a step. -/
theorem everyStepCompletesAndIdles : Obligations.EveryStepCompletesAndIdles := by
  intro s
  rcases step_cases s with ⟨hseq, h⟩ | ⟨c, hseq, h⟩ | ⟨op, k, q, p, c, h⟩
  · exact ⟨_, h, by simpa using hseq⟩
  · exact ⟨_, h, by simpa using hseq⟩
  · exact ⟨_, h, resumeCommand_seq ..⟩

/-! ### Reset -/

/-- Settles O10: the values of `State.resetWith`, and the two arguments that give `State.reset`. -/
theorem resetLeavesTheStatedValues : Obligations.ResetLeavesTheStatedValues :=
  fun _ _ => ⟨rfl, rfl, rfl, rfl, rfl, rfl, rfl, rfl, rfl, fun _ => rfl, Params.reference, Unspecified.zero, rfl⟩

/-- At reset the engine has written no register, because the trace is empty (R203). -/
theorem not_hasWritten_reset (p : Params) (u : Unspecified) (r : Reg) : ¬ (State.resetWith p u).hasWritten r := by
  rintro ⟨x, hx, -⟩
  cases hx

/-- Settles O11: no register is written yet and `master` is off. -/
theorem resetMeetsTheInvariants : Obligations.ResetMeetsTheInvariants :=
  fun p u => ⟨fun _ h => absurd h (not_hasWritten_reset p u _), fun _ h => absurd h (not_hasWritten_reset p u _),
    fun _ h => absurd h (not_hasWritten_reset p u _), fun h => by cases h⟩

end Sys2Proof.Machine
end

section
/-! The trace explains the two devices (R29, R61, R166): one transaction at a time, what it does to the clocks and to
the engine's bits is its effect in a replay; and a command spends at most seven. -/

namespace Sys2Proof.Machine

/-! ### One transaction -/

/-- From `s` to `t` the engine issued `x`: the trace gained it, `x` replayed gives the clocks and the engine's bits of
every register, and no mark is cleared. -/
structure Issues (s : State) (x : Transaction) (t : State) : Prop where
  params : t.params = s.params
  gate : t.gate = s.gate
  refused : t.refused = s.refused
  fault : ∀ f, s.fault = some f → t.fault = some f
  trace : t.trace = s.trace ++ [x]
  clk : t.clk = x.onClk s.clk
  own : ∀ r, t.own r = (x.onRegs s.regs).get r &&& ownMask s.params r

theorem issues_updateBits (r : Reg) (m v : Word) (s : State) :
    Issues s (.regUpdateBits r m v) (updateBits r m v s) where
  params := by simp
  gate := by simp
  refused := by simp
  fault f hf := by simp [updateBits_fault, hf]
  trace := by simp
  clk := by simp [Transaction.onClk]
  own r' := by
    rw [own_updateBits, Transaction.onRegs, get_set]
    split
    · subst_vars
      exact maskedValue_and ..
    · rfl

theorem issues_write (r : Reg) (v : Word) (s : State) : Issues s (.regWrite r v) (write r v s) where
  params := by simp
  gate := by simp
  refused := by simp
  fault f hf := by simp [write_fault, hf]
  trace := by simp
  clk := by simp [Transaction.onClk]
  own r' := by
    rw [own_write, Transaction.onRegs, get_set]
    split
    · subst_vars
      rfl
    · rfl

theorem issues_disableUnprepare (c : Clk) (s : State) : Issues s (.clkDisableUnprepare c) (disableUnprepare c s) where
  params := by simp
  gate := by simp
  refused := by simp
  fault f hf := by simpa using hf
  trace := by simp
  clk := by simp [Transaction.onClk]
  own r := by rw [own_disableUnprepare]; rfl

theorem issues_prepareEnable (c : Clk) (s : State) :
    Issues s (.clkPrepareEnable c (s.answer 0)) (prepareEnable c s).2 where
  params := by simp
  gate := by simp
  refused := by simp
  fault f hf := by simpa using hf
  trace := by simp
  clk := by
    rcases answer_cases (s.answer 0) with h | ⟨e, h⟩
    · rw [prepareEnable_clk_ok h, h, Transaction.onClk]
    · rw [prepareEnable_clk_err h, h, Transaction.onClk]
  own r := by rw [own_prepareEnable]; rfl

theorem issues_setRate (hz : Rate) (s : State) : Issues s (.clkSetRate .master hz (s.answer 0)) (setRate hz s).2 where
  params := by simp
  gate := by simp
  refused := by simp
  fault f hf := by simpa using hf
  trace := by simp
  clk := by
    rcases answer_cases (s.answer 0) with h | ⟨e, h⟩
    · rw [setRate_clk_ok h, h, Transaction.onClk]
    · rw [setRate_clk_err h, h, Transaction.onClk]
  own r := by rw [own_setRate]; rfl

theorem issues_setParent (s : State) :
    Issues s (.clkSetParent .master .masterSelect (s.answer 0)) (setParent s).2 where
  params := by simp
  gate := by simp
  refused := by simp
  fault f hf := by simpa using hf
  trace := by simp
  clk := by
    rcases answer_cases (s.answer 0) with h | ⟨e, h⟩
    · rw [setParent_clk_ok h, h, Transaction.onClk]
    · rw [setParent_clk_err h, h, Transaction.onClk]
  own r := by rw [own_setParent]; rfl

/-- What a transaction does to the engine's bits depends on the engine's bits alone. -/
theorem onRegs_own_congr (x : Transaction) {p : Params} {b b' : RegBlock}
    (h : ∀ r, b.get r &&& ownMask p r = b'.get r &&& ownMask p r) (r : Reg) :
    (x.onRegs b).get r &&& ownMask p r = (x.onRegs b').get r &&& ownMask p r := by
  cases x
  case regUpdateBits r' m v =>
    simp only [Transaction.onRegs, get_set]
    split
    · subst_vars
      rw [← maskedValue_and, h, maskedValue_and]
    · exact h r
  case regWrite r' v =>
    simp only [Transaction.onRegs, get_set]
    split
    · rfl
    · exact h r
  all_goals exact h r

/-! ### Which transactions the engine issues -/

/-- A half-word in a register leaves the high half zero (R34). -/
theorem zeroExtend_highHalf (w : Half) : w.zeroExtend 32 &&& (0xFFFF0000 : Word) = 0 := by
  have hmask : (0xFFFF0000 : Word) = BitVec.allOnes 16 ++ 0#16 := by decide
  apply BitVec.eq_of_getLsbD_eq
  intro i hi
  rw [hmask]
  simp only [BitVec.getLsbD_and, BitVec.getLsbD_append, BitVec.truncate_eq_setWidth, BitVec.getLsbD_setWidth]
  by_cases hlow : i < 16
  · simp [hlow]
  · simp [BitVec.getLsbD_of_ge w i (by omega)]

/-- The transactions of the engine: the masked updates of its six one-field operations, of the divider clear and of
FMT_CONFIG, the writes of a half-word, and the clock calls (R112, R122, R130 to R133, R152, R156, R68). -/
inductive Issuable (p : Params) : Transaction → Prop where
  | divEnable : Issuable p (.regUpdateBits .clkctrl p.layout.divEn p.layout.divEn)
  | divDisable : Issuable p (.regUpdateBits .clkctrl p.layout.divEn 0)
  | holdSet : Issuable p (.regUpdateBits .holdctrl p.layout.holdEn p.layout.holdEn)
  | holdClear : Issuable p (.regUpdateBits .holdctrl p.layout.holdEn 0)
  | linearSet : Issuable p (.regUpdateBits .memctrl p.layout.linear p.layout.linear)
  | divClear : Issuable p (.regUpdateBits .clkctrl (divClearMask p.layout) 0)
  | format (w : Byte) (v : Word) : fmtVal p.layout w = some v → Issuable p (.regUpdateBits .fmtctrl (fmtMask p) v)
  | csReg (r : Reg) (w : Half) : r = .csL0 ∨ r = .csR0 ∨ r = .csL1 ∨ r = .csR1 →
      Issuable p (.regWrite r (w.zeroExtend 32))
  | enable (c : Clk) (res : ClkResult) : c = .fast ∨ c = .iface ∨ c = .master → Issuable p (.clkPrepareEnable c res)
  | disable (c : Clk) : c = .iface ∨ c = .master ∨ c = .fast → Issuable p (.clkDisableUnprepare c)
  | rate (hz : Rate) (res : ClkResult) : Issuable p (.clkSetRate .master hz res)
  | parent (res : ClkResult) : Issuable p (.clkSetParent .master .masterSelect res)

/-- What the engine issues is allowed (R51, R52, R68). -/
theorem Issuable.allowed {p : Params} {x : Transaction} (h : Issuable p x) : x.allowed p := by
  cases h
  case divEnable => exact ⟨by decide, mask_own p .divEn (by simp), BitVec.and_not_self _⟩
  case divDisable => exact ⟨by decide, mask_own p .divEn (by simp), BitVec.zero_and⟩
  case holdSet => exact ⟨by decide, mask_own p .holdEn (by simp), BitVec.and_not_self _⟩
  case holdClear => exact ⟨by decide, mask_own p .holdEn (by simp), BitVec.zero_and⟩
  case linearSet => exact ⟨by decide, mask_own p .linear (by simp), BitVec.and_not_self _⟩
  case divClear => exact ⟨by decide, divClearMask_own p, BitVec.zero_and⟩
  case format w v hv => exact ⟨by decide, fmtMask_own p, fmtVal_masked hv⟩
  case csReg r w hr => exact ⟨hr, zeroExtend_highHalf w⟩
  case enable hc => exact hc
  case disable hc => exact hc
  case rate => rfl
  case parent => exact ⟨rfl, rfl⟩

/-- What the engine's transactions, a write of `gate` and the bookkeeping keep, every micro-operation keeps. -/
theorem keptByTransactions_of_issues {P : State → Prop}
    (bookkeeping : ∀ (s : State) (q : Seq) (e : Resp) (p : Latches) (b : Bool) (c : List Presented), P s →
      P { s with seq := q, resp := e, latches := p, refused := s.refused || b, env := { s.env with commands := c } })
    (gate : ∀ g s, P s → P (setGate g s))
    (issue : ∀ {s x t}, P s → Issues s x t → Issuable s.params x → P t) : KeptByTransactions P where
  bookkeeping := bookkeeping
  gate := gate
  divEnable _ h := issue h (issues_updateBits ..) .divEnable
  divDisable _ h := issue h (issues_updateBits ..) .divDisable
  holdSet _ h := issue h (issues_updateBits ..) .holdSet
  holdClear _ h := issue h (issues_updateBits ..) .holdClear
  linearSet _ h := issue h (issues_updateBits ..) .linearSet
  divClear _ h := issue h (issues_updateBits ..) .divClear
  format _ w v hv h := issue h (issues_updateBits ..) (.format w v hv)
  csReg _ r w hr h := issue h (issues_write ..) (.csReg r w hr)
  enable s c hc h := issue h (issues_prepareEnable c s) (.enable c _ hc)
  disable s c hc h := issue h (issues_disableUnprepare c s) (.disable c hc)
  rate s hz h := issue h (issues_setRate hz s) (.rate hz _)
  parent s h := issue h (issues_setParent s) (.parent _)

/-! ### A run of transactions -/

/-- From `s` to `t` the engine issued the transactions `new`, each an allowed one. -/
structure Explains (s : State) (new : List Transaction) (t : State) : Prop where
  params : t.params = s.params
  gains : Gains s t new
  clk : t.clk = replayClk new s.clk
  own : ∀ r, t.own r = (replayRegs new s.regs).get r &&& ownMask s.params r
  allowed : ∀ x ∈ new, x.allowed s.params

theorem Explains.refl (s : State) : Explains s [] s where
  params := rfl
  gains := (List.append_nil _).symm
  clk := rfl
  own _ := rfl
  allowed _ h := by cases h

/-- One more transaction. -/
theorem Explains.issue {s t u : State} {new : List Transaction} {x : Transaction} (h : Explains s new t)
    (hx : Issues t x u) (hallowed : x.allowed t.params) : Explains s (new ++ [x]) u where
  params := hx.params.trans h.params
  gains := h.gains.trans hx.trace
  clk := by rw [hx.clk, h.clk, replayClk, replayClk, List.foldl_append]; rfl
  own r := by
    have hreplay : replayRegs (new ++ [x]) s.regs = x.onRegs (replayRegs new s.regs) := by
      rw [replayRegs, replayRegs, List.foldl_append]; rfl
    have hown (r : Reg) : t.regs.get r &&& ownMask s.params r =
        (replayRegs new s.regs).get r &&& ownMask s.params r := by
      rw [← h.own r, own_eq, h.params]
    rw [hx.own, hreplay, h.params, onRegs_own_congr x hown]
  allowed y hy := by
    rcases List.mem_append.mp hy with hy | hy
    · exact h.allowed y hy
    · rw [List.mem_singleton.mp hy, ← h.params]
      exact hallowed

/-- Between `s` and `t` there are only transactions. -/
def Explained (s t : State) : Prop := ∃ new, Explains s new t

theorem Explained.issue {s t u : State} {x : Transaction} (h : Explained s t) (hx : Issues t x u)
    (hallowed : x.allowed t.params) : Explained s u :=
  h.elim fun _ h => ⟨_, h.issue hx hallowed⟩

/-- Every transaction of the engine is explained (R29). -/
theorem explained_kept (s : State) : KeptByTransactions (Explained s) :=
  keptByTransactions_of_issues
    (fun _ _ _ _ _ _ h => h.elim fun new h => ⟨new, h.params, h.gains, h.clk, h.own, h.allowed⟩)
    (fun _ _ h => h.elim fun new h => ⟨new, h.params, h.gains, h.clk, h.own, h.allowed⟩)
    (fun h hx hissuable => h.issue hx hissuable.allowed)

/-! ### How many transactions a command spends -/

/-- Of `n` transactions that the command may still issue, a step that began in `s` leaves `m` to the steps after it, or
raises within the `n`. -/
def Flow.Spends (s : State) (n m : Nat) : Flow → Prop
  | .goOn t => t.trace.length + m ≤ s.trace.length + n
  | .raised t _ => t.trace.length ≤ s.trace.length + n

/-- The steps issue at most `n` transactions, wherever the command ends. -/
def StepsWithin : Nat → List (State → Flow) → Prop
  | _, [] => True
  | n, f :: fs => ∃ m ≤ n, (∀ s, (f s).Spends s n m) ∧ StepsWithin m fs

/-- The later steps of a command issue no more than all of them may. -/
theorem StepsWithin.drop {fs : List (State → Flow)} :
    ∀ {n : Nat}, StepsWithin n fs → ∀ k, ∃ m ≤ n, StepsWithin m (fs.drop k) := by
  induction fs with
  | nil => intro n _ k; exact ⟨n, le_rfl, by rw [List.drop_nil]; trivial⟩
  | cons f fs ih =>
    intro n h k
    cases k with
    | zero => exact ⟨n, le_rfl, h⟩
    | succ k =>
      obtain ⟨m, hmn, -, hfs⟩ := h
      obtain ⟨m', hm', hdrop⟩ := ih hfs k
      exact ⟨m', hm'.trans hmn, hdrop⟩

theorem runSteps_trace_length {fs : List (State → Flow)} (op : Op) :
    ∀ {n : Nat}, StepsWithin n fs → ∀ (k : Nat) (s : State),
      (runSteps op k fs s).trace.length ≤ s.trace.length + n := by
  induction fs with
  | nil => intro n _ k s; exact Nat.le_add_right _ _
  | cons f fs ih =>
    intro n h k s
    obtain ⟨m, -, hf, hfs⟩ := h
    have hspent := hf (setSeq (.busy op k) s)
    unfold runSteps
    split <;> rename_i hflow <;> rw [hflow] at hspent
    · exact (ih hfs _ _).trans hspent
    · exact hspent

/-- A command goes on from any of its steps within the bound of all of them. -/
theorem runSteps_drop_trace_length {fs : List (State → Flow)} {n : Nat} (h : StepsWithin n fs) (op : Op) (j k : Nat)
    (s : State) : (runSteps op k (fs.drop j) s).trace.length ≤ s.trace.length + n := by
  obtain ⟨m, hm, hdrop⟩ := h.drop j
  have := runSteps_trace_length op hdrop k s
  omega

theorem acquire_spends (s : State) : (acquire s).Spends s 7 6 := by
  rcases answer_cases (s.answer 0) with h | ⟨e, h⟩
  · simp [acquire_ok h, Flow.Spends]
  · simp [acquire_err h, Flow.Spends]

/-- SELECT_AND_ENABLE issues its three calls, or fails within five transactions (R96, R97). -/
theorem selectAndEnable_spends (s : State) : (selectAndEnable s).Spends s 5 1 := by
  have hcleanup : (cleanupTrace s.params).length ≤ 1 := by
    rcases cleanupTrace_cases s.params with h | h <;> simp [h]
  rcases answer_cases (s.answer 0) with h0 | ⟨e, h0⟩
  · rcases answer_cases (s.answer 1) with h1 | ⟨e, h1⟩
    · rcases answer_cases (s.answer 2) with h2 | ⟨e, h2⟩
      · simp [selectAndEnable_ok h0 h1 h2, Flow.Spends]
      · simp [selectAndEnable_err_master h0 h1 h2, Flow.Spends]; omega
    · simp [selectAndEnable_err_iface h0 h1, Flow.Spends]; omega
  · simp [selectAndEnable_err_parent h0, Flow.Spends]; omega

theorem cfgClock_spends (s : State) : (cfgClock s).Spends s 7 5 := by
  rcases answer_cases (s.answer 0) with h | ⟨e, h⟩
  · simp [cfgClock_ok h, Flow.Spends]
  · simp [cfgClock_err h, Flow.Spends]

theorem csCheck_spends (s : State) : (csCheck s).Spends s 5 5 := by
  cases h : s.latches.csOk
  · simp [csCheck_err h, Flow.Spends]
  · simp [csCheck_ok h, Flow.Spends]

theorem fmtConfig_spends (s : State) : (fmtConfig s).Spends s 1 0 := by
  cases h : fmtVal s.params.layout s.latches.width with
  | none => simp [fmtConfig_none h, Flow.Spends]
  | some v => simp [fmtConfig_some h, Flow.Spends]

theorem startupSteps_within : StepsWithin 7 startupSteps :=
  ⟨6, by decide, acquire_spends, 5, by decide, fun s => by simp [Flow.Spends, defensiveHold, holdSet],
    1, by decide, selectAndEnable_spends, 0, by decide, fun s => by simp [Flow.Spends, linearSet], trivial⟩

theorem configureSteps_within : StepsWithin 7 configureSteps :=
  ⟨5, by decide, cfgClock_spends, 5, by decide, csCheck_spends, 1, by decide,
    fun s => by simp [Flow.Spends], 0, by decide, fmtConfig_spends, trivial⟩

theorem triggerSteps_within (cmd : TransportCommand) : StepsWithin 7 (triggerSteps cmd) := by
  unfold triggerSteps
  cases cmd.cls
  · exact ⟨5, by decide, fun s => by simp [Flow.Spends, gateStart, divEnable, holdClear], trivial⟩
  · exact ⟨5, by decide, fun s => by simp [Flow.Spends, gateStop, divDisable, holdSet], trivial⟩
  · exact ⟨7, by decide, fun s => by simp [Flow.Spends], trivial⟩

theorem shutdownSteps_within : StepsWithin 7 shutdownSteps :=
  ⟨4, by decide, fun s => by simp [Flow.Spends, release], trivial⟩

/-- A command spends at most seven transactions, from whatever step it goes on (R166). -/
theorem resumeCommand_trace_length (op : Op) (k : Nat) (s : State) :
    (resumeCommand op k s).trace.length ≤ s.trace.length + 7 := by
  cases op with
  | startup => exact runSteps_drop_trace_length startupSteps_within ..
  | configure =>
    show (configureFrom k s).trace.length ≤ _
    unfold configureFrom
    split
    · exact Nat.le_add_right _ _
    · exact runSteps_drop_trace_length configureSteps_within ..
  | trigger cmd => exact runSteps_drop_trace_length (triggerSteps_within cmd) ..
  | shutdown => exact runSteps_drop_trace_length shutdownSteps_within ..

theorem step_trace_length {s t : State} (h : step s = .next t) : t.trace.length ≤ s.trace.length + 7 := by
  rcases step_cases s with ⟨-, e⟩ | ⟨c, -, e⟩ | ⟨op, k, q, p, c, e⟩ <;> obtain rfl := next_unique h e
  · simp
  · simp
  · simpa using resumeCommand_trace_length op k
      { foreignActs s with seq := q, latches := p, env := { (foreignActs s).env with commands := c } }

/-! ### The whole step -/

/-- Settles O49: every transaction is explained, the foreign agents take their turns beside them, and a step spends at
most seven. -/
theorem traceExplainsTheDevices : Obligations.TraceExplainsTheDevices := by
  intro s t h
  have hstart : Explained s (foreignActs s) :=
    ⟨[], by simp, by simp [Gains], by simp [replayClk], fun r => by rw [own_foreignActs]; rfl, by simp⟩
  obtain ⟨new, hnew⟩ := step_keeps_from (explained_kept s).ops h hstart
  obtain ⟨n, hn, hforeign⟩ := step_keeps_from (afterTurns_kept (foreignActs s)).ops h (.refl _)
  have hgains : t.trace = s.trace ++ new := hnew.gains
  have hlength : t.trace.length = s.trace.length + new.length := by rw [hgains, List.length_append]
  have hbound := step_trace_length h
  obtain rfl : n = new.length := by rw [foreignActs_trace] at hn; omega
  exact ⟨new, hgains, by omega, hnew.clk, hnew.own, hforeign.bits, hnew.allowed⟩

end Sys2Proof.Machine
end

section
/-! What every step keeps: the marks and the trace (R25, R29), `LINEAR` (R31), and the four invariants of
spec/10_state.md (R21, R34, R35, R39). A transaction spares every register but its target, so that an invariant about a
register needs an argument for the operations that write it only. -/

namespace Sys2Proof.Machine

/-! ### Marks and trace -/

/-- No mark of `s` is cleared in `t`, and the trace of `s` has only grown. -/
structure Grows (s t : State) : Prop where
  fault : ∀ f, s.fault = some f → t.fault = some f
  refused : s.refused = true → t.refused = true
  trace : s.trace <+: t.trace

theorem Grows.refl (s : State) : Grows s s := ⟨fun _ h => h, id, List.prefix_rfl⟩

theorem Grows.issue {s t u : State} {x : Transaction} (h : Grows s t) (hx : Issues t x u) : Grows s u where
  fault f hf := hx.fault f (h.fault f hf)
  refused hr := hx.refused ▸ h.refused hr
  trace := hx.trace ▸ h.trace.trans (List.prefix_append ..)

theorem grows_kept (s : State) : KeptByTransactions (Grows s) :=
  keptByTransactions_of_issues (fun _ _ _ _ b _ h => ⟨h.fault, fun hr => by simp [h.refused hr], h.trace⟩)
    (fun _ _ h => ⟨h.fault, h.refused, h.trace⟩) (fun h hx _ => h.issue hx)

/-- Settles O48, transaction by transaction. -/
theorem marksAndTraceAreNeverCleared : Obligations.MarksAndTraceAreNeverCleared := by
  intro s t h
  have hturn : Grows s (foreignActs s) := ⟨by simp, by simp, by simp⟩
  have hgrows := step_keeps_from (grows_kept s).ops h hturn
  exact ⟨hgrows.fault, hgrows.refused, hgrows.trace⟩

/-! ### Sparing registers -/

/-- A transaction leaves every register but its target. -/
theorem get_onRegs_of_target_ne {x : Transaction} {r : Reg} (h : x.target ≠ some r) (b : RegBlock) :
    (x.onRegs b).get r = b.get r := by
  cases x
  case regUpdateBits r' m v => exact get_set_ne b _ fun e => h (congrArg some e.symm)
  case regWrite r' v => exact get_set_ne b _ fun e => h (congrArg some e.symm)
  all_goals rfl

/-- The transaction writes no register of `rs`. -/
def Transaction.Avoids (rs : List Reg) (x : Transaction) : Prop := ∀ r ∈ rs, x.target ≠ some r

theorem avoids_of_target {rs : List Reg} {x : Transaction} {r : Reg} (h : x.target = some r) (hr : r ∉ rs) :
    x.Avoids rs := by
  intro r' hr' e
  rw [h] at e
  injection e with e
  exact hr (e ▸ hr')

theorem avoids_of_no_target {rs : List Reg} {x : Transaction} (h : x.target = none) : x.Avoids rs := by
  intro r _ e
  rw [h] at e
  cases e

/-- From `s` to `t` no register of `rs` was written, no parameter changed and no mark was cleared. -/
structure Spares (rs : List Reg) (s t : State) : Prop where
  params : t.params = s.params
  own : ∀ r ∈ rs, t.own r = s.own r
  written : ∀ r ∈ rs, t.hasWritten r → s.hasWritten r
  clean : t.Clean → s.Clean

theorem spares_foreignActs (rs : List Reg) (s : State) : Spares rs s (foreignActs s) where
  params := by simp
  own r _ := by rw [own_foreignActs]
  written r _ h := by simpa [State.hasWritten] using h
  clean h := by simpa [State.Clean] using h

theorem spares_bookkeeping (rs : List Reg) (s : State) (q : Seq) (e : Resp) (p : Latches) (b : Bool)
    (c : List Presented) :
    Spares rs s
      { s with seq := q, resp := e, latches := p, refused := s.refused || b, env := { s.env with commands := c } } where
  params := rfl
  own _ _ := rfl
  written _ _ h := h
  clean h := ⟨h.1, (Bool.or_eq_false_iff.mp h.2).1⟩

theorem Issues.spares {s t : State} {x : Transaction} (h : Issues s x t) {rs : List Reg}
    (hx : x.Avoids rs) : Spares rs s t where
  params := h.params
  own r hr := by rw [h.own, get_onRegs_of_target_ne (hx r hr), own_eq]
  written r hr := by
    rintro ⟨y, hy, hty⟩
    rw [h.trace] at hy
    rcases List.mem_append.mp hy with hy | hy
    · exact ⟨y, hy, hty⟩
    · rw [List.mem_singleton.mp hy] at hty
      exact absurd hty (hx r hr)
  clean := by
    rintro ⟨hfault, hrefused⟩
    refine ⟨?_, h.refused ▸ hrefused⟩
    cases hf : s.fault with
    | none => rfl
    | some f => rw [h.fault f hf] at hfault; cases hfault

/-- A field of a spared register reads as before. -/
theorem Spares.field {rs : List Reg} {s t : State} (h : Spares rs s t) {f : Field} (hreg : f.reg ∈ rs)
    (hpcm : f ≠ .nonPcm) : t.field f = s.field f := field_congr h.params hpcm (h.own f.reg hreg)

/-- A field of the target reads what the transaction put there (R52). -/
theorem Issues.field {s t : State} {x : Transaction} (h : Issues s x t) {f : Field} (hpcm : f ≠ .nonPcm) :
    t.field f = fieldGet (s.params.layout.mask f) ((x.onRegs s.regs).get f.reg) := by
  rw [field_own t f (fun e => absurd e hpcm), h.own, h.params]
  apply fieldGet_congr
  have hsub := mask_own s.params f fun e => absurd e hpcm
  apply BitVec.eq_of_getLsbD_eq
  intro i hi
  have hbit := fun hk => bits_subset hsub hi hk
  cases hk : (s.params.layout.mask f).getLsbD i <;> simp_all

/-! ### LINEAR -/

/-- With a well-formed layout, `LINEAR` is set. -/
def LinearSet (s : State) : Prop := s.params.layout.wf = true ∧ s.field .linear = 1

theorem LinearSet.of_spares {s t : State} (h : LinearSet s) (hs : Spares [.memctrl] s t) : LinearSet t :=
  ⟨hs.params ▸ h.1, (hs.field (by decide) (by decide)).trans h.2⟩

/-- The one transaction on `MEMCTRL` sets `LINEAR` (R152). -/
theorem LinearSet.issue {s t : State} {x : Transaction} (h : LinearSet s) (hx : Issues s x t)
    (hissuable : Issuable s.params x) : LinearSet t := by
  cases hissuable
  case linearSet =>
    exact ⟨hx.params ▸ h.1, (hx.field (by decide)).trans (fieldGet_replay_set (f := .linear) h.1 rfl s.regs)⟩
  case csReg r w hr =>
    exact h.of_spares (hx.spares (avoids_of_target rfl (by rcases hr with rfl | rfl | rfl | rfl <;> decide)))
  case divEnable | divDisable | holdSet | holdClear | divClear | format =>
    exact h.of_spares (hx.spares (avoids_of_target rfl (by decide)))
  case enable | disable | rate | parent => exact h.of_spares (hx.spares (avoids_of_no_target rfl))

/-- Settles O53: no transaction clears `LINEAR`. -/
theorem linearModeStaysSet : Obligations.LinearModeStaysSet := by
  intro s t hwf hlinear hstep
  have hkept : KeptByTransactions LinearSet := keptByTransactions_of_issues
    (fun s q e p b c h => h.of_spares (spares_bookkeeping _ s q e p b c)) (fun _ _ h => h) LinearSet.issue
  exact (step_keeps hkept.ops (fun s h => h.of_spares (spares_foreignActs _ s)) hstep ⟨hwf, hlinear⟩).2

/-! ### The format control word -/

theorem FormatLegal.of_spares {s t : State} (h : FormatLegal s) (hs : Spares [.fmtctrl] s t) : FormatLegal t := by
  intro hclean hwritten
  have hlegal := h (hs.clean hclean) (hs.written .fmtctrl (by decide) hwritten)
  rw [hs.field (f := .mode16) (by decide) (by decide), hs.field (f := .mode32) (by decide) (by decide),
    hs.field (f := .align16) (by decide) (by decide), hs.field (f := .ufs) (by decide) (by decide),
    hs.field (f := .flr) (by decide) (by decide)]
  exact hlegal

/-- With a well-formed layout, the format control word is legal. -/
def FormatKept (s : State) : Prop := s.params.layout.wf = true ∧ FormatLegal s

theorem FormatKept.of_spares {s t : State} (h : FormatKept s) (hs : Spares [.fmtctrl] s t) : FormatKept t :=
  ⟨hs.params ▸ h.1, h.2.of_spares hs⟩

/-- The one transaction on `FMTCTRL` writes a format value, whose fields are legal (R35, R122). -/
theorem FormatKept.issue {s t : State} {x : Transaction} (h : FormatKept s) (hx : Issues s x t)
    (hissuable : Issuable s.params x) : FormatKept t := by
  cases hissuable
  case format w v hv =>
    have hread {f : Field} (hreg : f.reg = .fmtctrl) (hpcm : f ≠ .nonPcm) :
        t.field f = fieldGet (s.params.layout.mask f) v := by
      rw [hx.field hpcm, hreg, Transaction.onRegs, get_set_self,
        fieldGet_masked_subset (mask_subset_fmtMask s.params hreg hpcm)]
    refine ⟨hx.params ▸ h.1, fun _ _ => ?_⟩
    rw [hread (f := .mode16) rfl (by decide), hread (f := .mode32) rfl (by decide),
      hread (f := .align16) rfl (by decide), hread (f := .ufs) rfl (by decide), hread (f := .flr) rfl (by decide)]
    obtain ⟨hmode, hflags⟩ := fmtVal_fields h.1 hv
    exact ⟨hmode.imp (fun h => h.2) (fun h => h.2), hflags⟩
  case csReg r w hr =>
    exact h.of_spares (hx.spares (avoids_of_target rfl (by rcases hr with rfl | rfl | rfl | rfl <;> decide)))
  case divEnable | divDisable | holdSet | holdClear | linearSet | divClear =>
    exact h.of_spares (hx.spares (avoids_of_target rfl (by decide)))
  case enable | disable | rate | parent => exact h.of_spares (hx.spares (avoids_of_no_target rfl))

/-- Settles O55: FMT_CONFIG writes a legal format, and no other transaction touches `FMTCTRL`. -/
theorem stepKeepsFormatLegal : Obligations.StepKeepsFormatLegal := by
  intro s t hwf hlegal hstep
  have hkept : KeptByTransactions FormatKept := keptByTransactions_of_issues
    (fun s q e p b c h => h.of_spares (spares_bookkeeping _ s q e p b c)) (fun _ _ h => h) FormatKept.issue
  exact (step_keeps hkept.ops (fun s h => h.of_spares (spares_foreignActs _ s)) hstep ⟨hwf, hlegal⟩).2

/-! ### Invariants that hold between micro-operations -/

/-- The registers that the operations on the gate and CS_WRITE write: those are left to the caller of
`keptByOps_of_issues`. -/
def holdAndStatusRegs : List Reg := .holdctrl :: csRegs

/-- What every transaction keeps that spares `HOLDCTRL` and the channel-status registers, the micro-operations without
others keep; the invariant may be broken inside the rest. -/
theorem keptByOps_of_issues {P : State → Prop}
    (bookkeeping : ∀ (s : State) (q : Seq) (e : Resp) (p : Latches) (b : Bool) (c : List Presented), P s →
      P { s with seq := q, resp := e, latches := p, refused := s.refused || b, env := { s.env with commands := c } })
    (issue : ∀ {s x t}, P s → Issues s x t → x.Avoids holdAndStatusRegs → P t)
    (defensiveHold : ∀ s, P s → P (defensiveHold s)) (gateStart : ∀ s, P s → P (gateStart s))
    (gateStop : ∀ s, P s → P (gateStop s)) (csWrite : ∀ s, P s → P (csWrite s)) : KeptByOps P where
  bookkeeping := bookkeeping
  acquire s h := acquire_leaves (issue h (issues_prepareEnable ..) (avoids_of_no_target rfl))
  defensiveHold := defensiveHold
  selectAndEnable s h := selectAndEnable_leaves
    (fun _ h => issue h (issues_setParent _) (avoids_of_no_target rfl))
    (fun _ _ _ h => issue h (issues_prepareEnable ..) (avoids_of_no_target rfl))
    (fun _ _ _ h => issue h (issues_disableUnprepare ..) (avoids_of_no_target rfl)) h
  linearSet s h := issue h (issues_updateBits ..) (avoids_of_target rfl (by decide))
  cfgClock s h := cfgClock_leaves (issue (issue h (issues_updateBits ..) (avoids_of_target rfl (by decide)))
    (issues_setRate ..) (avoids_of_no_target rfl))
  csWrite := csWrite
  fmtConfig s h := fmtConfig_leaves
    (fun v _ => issue h (issues_updateBits ..) (avoids_of_target rfl (by decide))) h
  gateStart := gateStart
  gateStop := gateStop
  release s h :=
    have off {s : State} {c : Clk} (h : P s) : P (disableUnprepare c s) :=
      issue h (issues_disableUnprepare ..) (avoids_of_no_target rfl)
    off (off (off h))

/-! ### The recorded hold bit -/

theorem HoldRecorded.of_spares {s t : State} (h : HoldRecorded s) (hs : Spares [.holdctrl] s t)
    (hgate : t.gate = s.gate) : HoldRecorded t := by
  intro hclean hwritten
  have hrecorded := h (hs.clean hclean) (hs.written .holdctrl (by decide) hwritten)
  rw [hs.field (f := .holdEn) (by decide) (by decide), hgate]
  exact hrecorded

/-- With a well-formed layout, the gate records the hold bit. -/
def HoldKept (s : State) : Prop := s.params.layout.wf = true ∧ HoldRecorded s

theorem HoldKept.issue {s t : State} {x : Transaction} (h : HoldKept s) (hx : Issues s x t)
    (havoids : x.Avoids [.holdctrl]) : HoldKept t :=
  ⟨hx.params ▸ h.1, h.2.of_spares (hx.spares havoids) hx.gate⟩

theorem holdKept_defensiveHold {s : State} (h : HoldKept s) : HoldKept (defensiveHold s) :=
  ⟨by simpa [defensiveHold, holdSet] using h.1, fun _ _ => field_set (f := .holdEn) h.1 rfl⟩

theorem holdKept_gateStart {s : State} (h : HoldKept s) : HoldKept (gateStart s) :=
  ⟨by simpa [gateStart, divEnable, holdClear] using h.1, fun _ _ => field_clear (setField .divEn s) .holdEn⟩

theorem holdKept_gateStop {s : State} (h : HoldKept s) : HoldKept (gateStop s) :=
  ⟨by simpa [gateStop, divDisable, holdSet] using h.1,
    fun _ _ => (field_clearField_setField (g := .divEn) h.1 (f := .holdEn) rfl (by decide) (by decide)).1⟩

theorem holdKept_csWrite {s : State} (h : HoldKept s) : HoldKept (csWrite s) := by
  have put {s : State} {r : Reg} {v : Word} (h : HoldKept s) (hr : r ∉ [.holdctrl]) : HoldKept (write r v s) :=
    h.issue (issues_write ..) (avoids_of_target rfl hr)
  exact put (put (put (put h (by decide)) (by decide)) (by decide)) (by decide)

/-- Settles O54: each operation that writes the hold bit writes the gate with it. -/
theorem stepKeepsHoldRecorded : Obligations.StepKeepsHoldRecorded := by
  intro s t hwf hrecorded hstep
  have hkept : KeptByOps HoldKept := keptByOps_of_issues
    (fun s q e p b c h => ⟨h.1, h.2.of_spares (spares_bookkeeping _ s q e p b c) rfl⟩)
    (fun h hx havoids => h.issue hx fun r hr => havoids r (List.mem_append_left csRegs hr))
    (fun _ => holdKept_defensiveHold) (fun _ => holdKept_gateStart) (fun _ => holdKept_gateStop)
    (fun _ => holdKept_csWrite)
  have hturn (s : State) (h : HoldKept s) : HoldKept (foreignActs s) :=
    ⟨(foreignActs_params s).symm ▸ h.1, h.2.of_spares (spares_foreignActs _ s) (foreignActs_gate s)⟩
  exact (step_keeps hkept hturn hstep ⟨hwf, hrecorded⟩).2

/-! ### The channel-status banks -/

theorem BanksAgree.of_spares {s t : State} (h : BanksAgree s) (hs : Spares csRegs s t) : BanksAgree t := by
  intro hclean hwritten
  have hagree := h (hs.clean hclean) (hs.written .csL0 (by decide) hwritten)
  rw [← own_csL0, ← own_csR0, ← own_csL1, ← own_csR1, hs.own .csL0 (by decide), hs.own .csR0 (by decide),
    hs.own .csL1 (by decide), hs.own .csR1 (by decide)]
  simpa using hagree

theorem BanksAgree.issue {s t : State} {x : Transaction} (h : BanksAgree s) (hx : Issues s x t)
    (havoids : x.Avoids csRegs) : BanksAgree t := h.of_spares (hx.spares havoids)

theorem BanksAgree.updateBits {s : State} (h : BanksAgree s) {r : Reg} (hr : r ∉ csRegs) (m v : Word) :
    BanksAgree (updateBits r m v s) := h.issue (issues_updateBits ..) (avoids_of_target rfl hr)

/-- CS_WRITE makes the banks agree, whatever they held (R34, R112). -/
theorem banksAgree_csWrite (s : State) : BanksAgree (csWrite s) := by
  intro _ _
  rw [← own_csL0, ← own_csR0, ← own_csL1, ← own_csR1]
  simp only [own_csWrite]
  exact ⟨rfl, rfl, zeroExtend_highHalf _, zeroExtend_highHalf _⟩

/-- Settles O56: CS_WRITE writes both banks, and nothing else writes them. -/
theorem stepKeepsBanksAgree : Obligations.StepKeepsBanksAgree := by
  intro s t hagree hstep
  have hkept : KeptByOps BanksAgree := keptByOps_of_issues
    (fun s q e p b c h => h.of_spares (spares_bookkeeping _ s q e p b c))
    (fun h hx havoids => h.issue hx fun r hr => havoids r (List.mem_cons_of_mem _ hr))
    (fun s h => h.updateBits (r := .holdctrl) (by decide) _ _)
    (fun s h => (h.updateBits (r := .clkctrl) (by decide) _ _).updateBits (r := .holdctrl) (by decide) _ _)
    (fun s h => (h.updateBits (r := .holdctrl) (by decide) _ _).updateBits (r := .clkctrl) (by decide) _ _)
    (fun s _ => banksAgree_csWrite s)
  exact step_keeps hkept (fun s h => h.of_spares (spares_foreignActs _ s)) hstep hagree

end Sys2Proof.Machine
end

section
/-! The order in time: the parent of `master` is set before `master` is enabled (R39, R96), and at no point of a command
does data flow while the divider is off (R145). -/

namespace Sys2Proof.Machine

/-! ### The parent before the enable -/

/-- A change of the clocks that does not enable `master`, and that leaves its parent or sets it to `masterSelect`, keeps
R39. -/
theorem ParentBeforeEnable.of_clk {s t : State} (h : ParentBeforeEnable s)
    (hen : t.clk.enMaster = true → s.clk.enMaster = true)
    (hparent : t.clk.parentMaster = s.clk.parentMaster ∨ t.clk.parentMaster = some .masterSelect) :
    ParentBeforeEnable t := by
  intro ht
  rcases hparent with he | he
  · exact he.trans (h (hen ht))
  · exact he

theorem ParentBeforeEnable.of_clk_eq {s t : State} (h : ParentBeforeEnable s) (hclk : t.clk = s.clk) :
    ParentBeforeEnable t := h.of_clk (by rw [hclk]; exact id) (.inl (by rw [hclk]))

theorem parentBeforeEnable_prepareEnable {s : State} (h : ParentBeforeEnable s) {c : Clk}
    (hc : c = .master → s.clk.parentMaster = some .masterSelect) : ParentBeforeEnable (prepareEnable c s).2 := by
  rcases answer_cases (s.answer 0) with h0 | ⟨e, h0⟩
  · intro hen
    rw [prepareEnable_clk_ok h0] at hen ⊢
    cases c
    case master => exact hc rfl
    all_goals exact h hen
  · exact h.of_clk_eq (prepareEnable_clk_err h0)

theorem parentBeforeEnable_disableUnprepare {s : State} (h : ParentBeforeEnable s) (c : Clk) :
    ParentBeforeEnable (disableUnprepare c s) := by
  intro hen
  rw [disableUnprepare_clk] at hen ⊢
  cases c
  case master => cases hen
  all_goals exact h hen

theorem parentBeforeEnable_cleanupFast {s : State} (h : ParentBeforeEnable s) : ParentBeforeEnable (cleanupFast s) := by
  unfold cleanupFast
  split
  · exact parentBeforeEnable_disableUnprepare h .fast
  · exact h

theorem parentBeforeEnable_setRate {s : State} (h : ParentBeforeEnable s) (hz : Rate) :
    ParentBeforeEnable (setRate hz s).2 := by
  rcases answer_cases (s.answer 0) with h0 | ⟨e, h0⟩
  · exact h.of_clk (by rw [setRate_clk_ok h0]; exact id) (.inl (by rw [setRate_clk_ok h0]))
  · exact h.of_clk_eq (setRate_clk_err h0)

/-- SELECT_AND_ENABLE enables `master` only once its parent is set (R96). -/
theorem parentBeforeEnable_selectAndEnable {s : State} (h : ParentBeforeEnable s) :
    (selectAndEnable s).Leaves ParentBeforeEnable := by
  rcases answer_cases (s.answer 0) with h0 | ⟨e, h0⟩
  · have hparent : (setParent s).2.clk.parentMaster = some .masterSelect := by rw [setParent_clk_ok h0]
    have hset : ParentBeforeEnable (setParent s).2 := fun _ => hparent
    have hiface := parentBeforeEnable_prepareEnable hset (c := .iface) (fun e => by cases e)
    rcases answer_cases (s.answer 1) with h1 | ⟨e, h1⟩
    · have hparent' : (prepareEnable .iface (setParent s).2).2.clk.parentMaster = some .masterSelect := by
        rw [prepareEnable_clk_ok (by simpa using h1)]
        exact hparent
      have hmaster := parentBeforeEnable_prepareEnable hiface (c := .master) (fun _ => hparent')
      rcases answer_cases (s.answer 2) with h2 | ⟨e, h2⟩
      · rw [selectAndEnable_ok h0 h1 h2]
        exact hmaster
      · rw [selectAndEnable_err_master h0 h1 h2]
        exact parentBeforeEnable_cleanupFast (parentBeforeEnable_disableUnprepare hmaster .iface)
    · rw [selectAndEnable_err_iface h0 h1]
      exact parentBeforeEnable_cleanupFast hiface
  · rw [selectAndEnable_err_parent h0]
    exact parentBeforeEnable_cleanupFast (h.of_clk_eq (setParent_clk_err h0))

/-- Settles O57: only SELECT_AND_ENABLE enables `master`. -/
theorem stepKeepsParentBeforeEnable : Obligations.StepKeepsParentBeforeEnable := by
  intro s t hparent hstep
  have hkept : KeptByOps ParentBeforeEnable :=
    { bookkeeping := fun _ _ _ _ _ _ h => h
      acquire := fun _ h => acquire_leaves (parentBeforeEnable_prepareEnable h fun e => by cases e)
      defensiveHold := fun _ h => h.of_clk_eq (by simp [defensiveHold, holdSet])
      selectAndEnable := fun _ h => parentBeforeEnable_selectAndEnable h
      linearSet := fun _ h => h.of_clk_eq (by simp [linearSet])
      cfgClock := fun _ h => cfgClock_leaves (parentBeforeEnable_setRate (h.of_clk_eq (by simp)) _)
      csWrite := fun _ h => h.of_clk_eq (by simp)
      fmtConfig := fun _ h => fmtConfig_leaves (fun _ _ => h.of_clk_eq (by simp)) h
      gateStart := fun _ h => h.of_clk_eq (by simp [gateStart, divEnable, holdClear])
      gateStop := fun _ h => h.of_clk_eq (by simp [gateStop, divDisable, holdSet])
      release := fun _ h => parentBeforeEnable_disableUnprepare (parentBeforeEnable_disableUnprepare
        (parentBeforeEnable_disableUnprepare h .iface) .master) .fast }
  exact step_keeps hkept (fun s h => h.of_clk_eq (by simp)) hstep hparent

/-! ### No flow without the divider -/

/-- At every point between the transactions of a list, its ends among them, data flows only while the divider is on. -/
def SafeAlong (L : Layout) (b : RegBlock) : List Transaction → Prop
  | [] => dataNeedsDivider L b
  | x :: xs => dataNeedsDivider L b ∧ SafeAlong L (x.onRegs b) xs

/-- A list that is safe along is safe wherever it is cut. -/
theorem SafeAlong.at_cut {L : Layout} {before after : List Transaction} :
    ∀ {b : RegBlock}, SafeAlong L b (before ++ after) → dataNeedsDivider L (replayRegs before b) := by
  induction before with
  | nil =>
    intro b h
    cases after with
    | nil => exact h
    | cons => exact h.1
  | cons x xs ih => exact fun h => ih h.2

/-- The transaction leaves `HOLD_EN` and `DIV_EN`, whatever the registers hold. -/
def KeepsFlow (L : Layout) (x : Transaction) : Prop :=
  ∀ b, fieldGet L.holdEn (x.onRegs b).holdctrl = fieldGet L.holdEn b.holdctrl ∧
    fieldGet L.divEn (x.onRegs b).clkctrl = fieldGet L.divEn b.clkctrl

theorem KeepsFlow.dataNeedsDivider {L : Layout} {x : Transaction} (h : KeepsFlow L x) {b : RegBlock}
    (hb : dataNeedsDivider L b) : dataNeedsDivider L (x.onRegs b) := by
  unfold Machine.dataNeedsDivider
  rw [(h b).1, (h b).2]
  exact hb

theorem safeAlong_of_keepsFlow {L : Layout} {l : List Transaction} :
    (∀ x ∈ l, KeepsFlow L x) → ∀ {b : RegBlock}, dataNeedsDivider L b → SafeAlong L b l := by
  induction l with
  | nil => exact fun _ _ hb => hb
  | cons x xs ih =>
    intro h b hb
    exact ⟨hb, ih (fun y hy => h y (List.mem_cons_of_mem x hy)) ((h x List.mem_cons_self).dataNeedsDivider hb)⟩

/-- A transaction on another register touches neither field. -/
theorem keepsFlow_of_avoids {L : Layout} {x : Transaction} (h : x.Avoids [.clkctrl, .holdctrl]) : KeepsFlow L x :=
  fun b => ⟨congrArg (fieldGet L.holdEn) (get_onRegs_of_target_ne (h .holdctrl (by decide)) b),
    congrArg (fieldGet L.divEn) (get_onRegs_of_target_ne (h .clkctrl (by decide)) b)⟩

/-- The divider clear leaves `DIV_EN` out (R56 (f), R156). -/
theorem keepsFlow_divClear {L : Layout} (hwf : L.wf = true) :
    KeepsFlow L (.regUpdateBits .clkctrl (divClearMask L) 0) := by
  have hdisjoint : L.divEn &&& divClearMask L = 0 := by
    have hsel : L.divEn &&& L.divSel = 0 := wf_disjoint hwf (f := .divEn) (g := .divSel) (by decide) rfl
    have hextra : L.divEn &&& L.divExtra = 0 := wf_disjoint hwf (f := .divEn) (g := .divExtra) (by decide) rfl
    apply BitVec.eq_of_getLsbD_eq
    intro i hi
    have hsel := bits_disjoint hsel i
    have hextra := bits_disjoint hextra i
    cases hk : L.divEn.getLsbD i <;> simp_all [divClearMask]
  exact fun b => ⟨rfl, fieldGet_masked_disjoint hdisjoint b.clkctrl 0⟩

/-- While the hold bit is set, no data flows. -/
theorem dataNeedsDivider_of_hold {L : Layout} {b : RegBlock} (h : fieldGet L.holdEn b.holdctrl = 1) :
    dataNeedsDivider L b := fun e => absurd (h.symm.trans e.1) (by decide)

/-- While the divider is on, data may flow. -/
theorem dataNeedsDivider_of_divider {L : Layout} {b : RegBlock} (h : fieldGet L.divEn b.clkctrl = 1) :
    dataNeedsDivider L b := fun e => absurd (h.symm.trans e.2) (by decide)

/-- After the hold bit is set, no data flows. -/
theorem dataNeedsDivider_holdSet {L : Layout} (hwf : L.wf = true) (b : RegBlock) :
    dataNeedsDivider L ((Transaction.regUpdateBits .holdctrl L.holdEn L.holdEn).onRegs b) :=
  dataNeedsDivider_of_hold (fieldGet_replay_set hwf (f := .holdEn) rfl b)

/-- GATE_START has the divider on before it clears the hold bit (R134). -/
theorem safeAlong_gateStart {L : Layout} (hwf : L.wf = true) {b : RegBlock} (hb : dataNeedsDivider L b) :
    SafeAlong L b [.regUpdateBits .clkctrl L.divEn L.divEn, .regUpdateBits .holdctrl L.holdEn 0] :=
  have hdivider : fieldGet L.divEn ((Transaction.regUpdateBits .clkctrl L.divEn L.divEn).onRegs b).clkctrl = 1 :=
    fieldGet_replay_set hwf (f := .divEn) rfl b
  ⟨hb, dataNeedsDivider_of_divider hdivider, dataNeedsDivider_of_divider hdivider⟩

/-- GATE_STOP has the hold bit set before it takes the divider away (R135). -/
theorem safeAlong_gateStop {L : Layout} (hwf : L.wf = true) {b : RegBlock} (hb : dataNeedsDivider L b) :
    SafeAlong L b [.regUpdateBits .holdctrl L.holdEn L.holdEn, .regUpdateBits .clkctrl L.divEn 0] :=
  have hhold : fieldGet L.holdEn ((Transaction.regUpdateBits .holdctrl L.holdEn L.holdEn).onRegs b).holdctrl = 1 :=
    fieldGet_replay_set hwf (f := .holdEn) rfl b
  ⟨hb, dataNeedsDivider_of_hold hhold, dataNeedsDivider_of_hold hhold⟩

/-- The transactions of a STARTUP after its defensive hold touch neither field. -/
theorem safeAlong_startup {L : Layout} (hwf : L.wf = true) {b : RegBlock} (hb : dataNeedsDivider L b) (a : ClkResult)
    {l : List Transaction} (hl : ∀ x ∈ l, x.Avoids [.clkctrl, .holdctrl]) :
    SafeAlong L b (.clkPrepareEnable .fast a :: .regUpdateBits .holdctrl L.holdEn L.holdEn :: l) :=
  ⟨hb, hb, safeAlong_of_keepsFlow (fun x hx => keepsFlow_of_avoids (hl x hx)) (dataNeedsDivider_holdSet hwf b)⟩

/-- The transactions of a CONFIGURE after its divider clear touch neither field. -/
theorem safeAlong_configure {L : Layout} (hwf : L.wf = true) {b : RegBlock} (hb : dataNeedsDivider L b)
    {l : List Transaction} (hl : ∀ x ∈ l, x.Avoids [.clkctrl, .holdctrl]) :
    SafeAlong L b (.regUpdateBits .clkctrl (divClearMask L) 0 :: l) := by
  refine safeAlong_of_keepsFlow (fun x hx => ?_) hb
  rcases List.mem_cons.mp hx with rfl | hx
  · exact keepsFlow_divClear hwf
  · exact keepsFlow_of_avoids (hl x hx)

theorem cleanupTrace_avoids (rs : List Reg) (p : Params) : ∀ x ∈ cleanupTrace p, x.Avoids rs := by
  rcases cleanupTrace_cases p with h | h <;> simp [h, Transaction.Avoids, Transaction.target]

/-- Every list that a command can issue is safe along (R134, R135, R150, R155, R163). -/
theorem Issued.safeAlong {i : Instr} {s t : State} {new : List Transaction} (h : Issued i s t new)
    (hwf : s.params.layout.wf = true) (hs : dataNeedsDivider s.params.layout s.regs) :
    SafeAlong s.params.layout s.regs new := by
  cases h
  case startupErrFast => exact ⟨hs, hs⟩
  case startupOk =>
    refine safeAlong_startup hwf hs _ ?_
    simp [Transaction.Avoids, Transaction.target]
  case startupErrParent | startupErrIface | startupErrMaster =>
    simp only [List.cons_append, List.nil_append]
    refine safeAlong_startup hwf hs _ ?_
    simpa [Transaction.Avoids, Transaction.target] using cleanupTrace_avoids [.clkctrl, .holdctrl] s.params
  case configureErrRate | configureErrCs | configureErrWidth | configureOk =>
    refine safeAlong_configure hwf hs ?_
    simp [Transaction.Avoids, Transaction.target]
  case gateStart => exact safeAlong_gateStart hwf hs
  case gateStop => exact safeAlong_gateStop hwf hs
  case configureRefused | rejected => exact hs
  case shutdown => exact ⟨hs, hs, hs, hs⟩

/-- Settles O42, from the transactions a command can issue. -/
theorem dataNeverFlowsWithoutTheDivider : Obligations.DataNeverFlowsWithoutTheDivider := by
  intro i s t before after hwf hexec _ hgains hs
  exact ((exec_issued hexec hgains).safeAlong hwf hs).at_cut

end Sys2Proof.Machine
end

section
/-! STARTUP: what a successful one brings up (R150), the four failures (R151) and the frame; SHUTDOWN (R163, R164). -/

namespace Sys2Proof.Machine

/-! ### Marks, response and clocks of a STARTUP -/

/-- A STARTUP accesses registers only with `fast` on, so it sets no fault mark (R60, R150). -/
theorem startup_fault (s : State) : (startupFrom 1 s).fault = s.fault := by
  rcases forms_startup s with ⟨h0, h1, h2, h3⟩ | ⟨e, h0⟩ | ⟨e, h0, h1⟩ | ⟨e, h0, h1, h2⟩ | ⟨e, h0, h1, h2, h3⟩
  · simp [startup_ok h0 h1 h2 h3, linearSet, defensiveHold, holdSet, updateBits_fault, prepareEnable_clk_ok,
      setParent_clk_ok, ClkState.setEn, h0, h1, h2, h3]
  · simp [startup_err_fast h0]
  · simp [startup_err_parent h0 h1, defensiveHold, holdSet, updateBits_fault, prepareEnable_clk_ok, ClkState.setEn, h0]
  · simp [startup_err_iface h0 h1 h2, defensiveHold, holdSet, updateBits_fault, prepareEnable_clk_ok,
      ClkState.setEn, h0]
  · simp [startup_err_master h0 h1 h2 h3, defensiveHold, holdSet, updateBits_fault, prepareEnable_clk_ok,
      ClkState.setEn, h0]

@[simp] theorem defensiveHold_clk (s : State) : (defensiveHold s).clk = s.clk := by simp [defensiveHold, holdSet]

@[simp] theorem defensiveHold_params (s : State) : (defensiveHold s).params = s.params := by
  simp [defensiveHold, holdSet]

@[simp] theorem defensiveHold_gate (s : State) : (defensiveHold s).gate = .held := rfl

/-- The hold writes `HOLDCTRL` and no other register (R132). -/
theorem own_defensiveHold_of_ne (s : State) {r : Reg} (h : r ≠ .holdctrl) : (defensiveHold s).own r = s.own r := by
  simp [defensiveHold, holdSet, own_updateBits, h]

theorem holdEn_defensiveHold {s : State} (hwf : s.params.layout.wf = true) : (defensiveHold s).field .holdEn = 1 :=
  field_set (f := .holdEn) hwf rfl

/-- The clocks after a STARTUP that succeeds (R150). -/
theorem startup_ok_clk {s : State} (h0 : s.answer 0 = .ok) (h1 : s.answer 1 = .ok) (h2 : s.answer 2 = .ok)
    (h3 : s.answer 3 = .ok) :
    (startupFrom 1 s).clk =
      { s.clk with enFast := true, enIface := true, enMaster := true, parentMaster := some .masterSelect } := by
  simp [startup_ok h0 h1 h2 h3, linearSet, prepareEnable_clk_ok, setParent_clk_ok, ClkState.setEn, h0, h1, h2, h3]

/-- Its last transaction sets `LINEAR` (R152). -/
theorem linear_startup_ok {s : State} (hwf : s.params.layout.wf = true) (h0 : s.answer 0 = .ok)
    (h1 : s.answer 1 = .ok) (h2 : s.answer 2 = .ok) (h3 : s.answer 3 = .ok) :
    (startupFrom 1 s).field .linear = 1 := by
  rw [startup_ok h0 h1 h2 h3]
  exact field_set (f := .linear) (by simpa using hwf) rfl

/-- Settles O19, from the form of a STARTUP that succeeds. -/
theorem startupBringsTheEngineUp : Obligations.StartupBringsTheEngineUp := by
  intro s hwf h0 h1 h2 h3
  exact ⟨_, exec_startup s, startup_ok_clk h0 h1 h2 h3, holdEn_startup_ok h0 h1 h2 h3 hwf,
    linear_startup_ok hwf h0 h1 h2 h3, startup_ok_gate h0 h1 h2 h3, startup_ok_resp h0 h1 h2 h3, runSteps_seq ..,
    startup_fault s, gains_startup_ok h0 h1 h2 h3⟩

/-- Where SELECT_AND_ENABLE failed, the hold is set and `MEMCTRL` untouched: its clock calls and its cleanup write no
register (R96, R97, R151). -/
theorem startup_failed_regs {s t : State} {e : Resp} (hwf : s.params.layout.wf = true)
    (hparams : t.params = s.params) (hown : t.own = (defensiveHold (prepareEnable .fast s).2).own) :
    (raise e t).field .holdEn = 1 ∧ (raise e t).own .memctrl = s.own .memctrl := by
  have hhold : (defensiveHold (prepareEnable .fast s).2).field .holdEn = 1 := holdEn_defensiveHold (by simpa using hwf)
  refine ⟨(field_congr (by simpa using hparams) (by decide) ?_).trans hhold, ?_⟩
  · rw [own_raise, hown]
  · rw [own_raise, hown, own_defensiveHold_of_ne _ (by decide), own_prepareEnable]

/-- Settles O20, row by row. -/
theorem startupFailureTable : Obligations.StartupFailureTable := by
  intro s e hwf
  have hfault := startup_fault s
  refine ⟨fun h0 => ⟨_, exec_startup s, ?_⟩, fun h0 h1 => ⟨_, exec_startup s, ?_⟩,
    fun h0 h1 h2 => ⟨_, exec_startup s, ?_⟩, fun h0 h1 h2 h3 => ⟨_, exec_startup s, ?_⟩⟩
  · rw [startup_err_fast h0] at hfault ⊢
    exact ⟨rfl, prepareEnable_clk_err h0, by simp, by simp, hfault, by simp [Gains, h0]⟩
  · rw [startup_err_parent h0 h1] at hfault ⊢
    obtain ⟨hhold, hmem⟩ := startup_failed_regs (s := s) (e := .clockError .setParent e) hwf
      (t := cleanupFast (setParent (defensiveHold (prepareEnable .fast s).2)).2) (by simp) (by simp)
    refine ⟨rfl, ?_, by simp, hhold, hmem, hfault, by simp [Gains, defensiveHold, holdSet, h0, h1]⟩
    cases hc : s.params.conservativeCleanup <;>
      simp [hc, prepareEnable_clk_ok h0, setParent_clk_err (e := e), h1, ClkState.setEn]
  · rw [startup_err_iface h0 h1 h2] at hfault ⊢
    obtain ⟨hhold, hmem⟩ := startup_failed_regs (s := s) (e := .clockError .enableIface e) hwf
      (t := cleanupFast (prepareEnable .iface (setParent (defensiveHold (prepareEnable .fast s).2)).2).2)
      (by simp) (by simp)
    refine ⟨rfl, ?_, by simp, hhold, hmem, hfault, by simp [Gains, defensiveHold, holdSet, h0, h1, h2]⟩
    cases hc : s.params.conservativeCleanup <;>
      simp [hc, prepareEnable_clk_ok h0, setParent_clk_ok, prepareEnable_clk_err (e := e), h1, h2, ClkState.setEn]
  · rw [startup_err_master h0 h1 h2 h3] at hfault ⊢
    obtain ⟨hhold, hmem⟩ := startup_failed_regs (s := s) (e := .clockError .enableMaster e) hwf
      (t := cleanupFast (disableUnprepare .iface
          (prepareEnable .master
            (prepareEnable .iface (setParent (defensiveHold (prepareEnable .fast s).2)).2).2).2))
      (by simp) (by simp)
    refine ⟨rfl, ?_, by simp, hhold, hmem, hfault, by simp [Gains, defensiveHold, holdSet, h0, h1, h2, h3]⟩
    cases hc : s.params.conservativeCleanup <;>
      simp [hc, prepareEnable_clk_ok, setParent_clk_ok, prepareEnable_clk_err (e := e), h0, h1, h2, h3, ClkState.setEn]

/-! ### What a STARTUP leaves unchanged -/

/-- The enable of `masterSelect` is another flag than those of the other clocks (R27). -/
theorem setEn_enMasterSelect (k : ClkState) {c : Clk} (hc : c ≠ .masterSelect) (b : Bool) :
    (k.setEn c b).enMasterSelect = k.enMasterSelect := en_setEn_ne k b hc.symm

@[simp] theorem setEn_rateReqMaster (k : ClkState) (c : Clk) (b : Bool) :
    (k.setEn c b).rateReqMaster = k.rateReqMaster := by cases c <;> rfl

/-- From `s` to `t` nothing changed but what STARTUP is there to change: the clocks it enables, the parent of `master`,
`HOLDCTRL`, `MEMCTRL`, the gate, the response, the trace and the inputs it draws. -/
structure StartupKeeps (s t : State) : Prop where
  params : t.params = s.params
  latches : t.latches = s.latches
  refused : t.refused = s.refused
  enMasterSelect : t.clk.enMasterSelect = s.clk.enMasterSelect
  rateReqMaster : t.clk.rateReqMaster = s.clk.rateReqMaster
  own : ∀ r, r ≠ .holdctrl → r ≠ .memctrl → t.own r = s.own r
  commands : t.env.commands = s.env.commands

namespace StartupKeeps

variable {s t : State}

theorem refl (s : State) : StartupKeeps s s := ⟨rfl, rfl, rfl, rfl, rfl, fun _ _ _ => rfl, rfl⟩

theorem trans {u : State} (h : StartupKeeps s t) (h' : StartupKeeps t u) : StartupKeeps s u where
  params := h'.params.trans h.params
  latches := h'.latches.trans h.latches
  refused := h'.refused.trans h.refused
  enMasterSelect := h'.enMasterSelect.trans h.enMasterSelect
  rateReqMaster := h'.rateReqMaster.trans h.rateReqMaster
  own r hh hm := (h'.own r hh hm).trans (h.own r hh hm)
  commands := h'.commands.trans h.commands

theorem prepareEnable (s : State) {c : Clk} (hc : c ≠ .masterSelect) : StartupKeeps s (prepareEnable c s).2 := by
  refine ⟨by simp, by simp, by simp, ?_, ?_, by simp, by simp⟩ <;> rw [(prepareEnable_spec c s).2.1] <;> split <;>
    simp [setEn_enMasterSelect _ hc]

theorem disableUnprepare (s : State) {c : Clk} (hc : c ≠ .masterSelect) : StartupKeeps s (disableUnprepare c s) := by
  refine ⟨by simp, by simp, by simp, ?_, ?_, by simp, by simp⟩ <;> simp [setEn_enMasterSelect _ hc]

theorem setParent (s : State) : StartupKeeps s (setParent s).2 := by
  refine ⟨by simp, by simp, by simp, ?_, ?_, by simp, by simp⟩ <;> rw [(setParent_spec s).2.1] <;> split <;> rfl

theorem updateBits (s : State) {r : Reg} (hr : r = .holdctrl ∨ r = .memctrl) (m v : Word) :
    StartupKeeps s (updateBits r m v s) where
  params := by simp
  latches := by simp
  refused := by simp
  enMasterSelect := by simp
  rateReqMaster := by simp
  own r' hh hm := by
    rw [own_updateBits, if_neg]
    rintro rfl
    exact hr.elim hh hm
  commands := by simp

/-- Every step of STARTUP keeps it (R150 (a), (b)). -/
theorem startupFrom (k : Nat) (s : State) : StartupKeeps s (startupFrom k s) := by
  refine runSteps_keeps (fun _ _ _ h => ⟨h.params, h.latches, h.refused, h.enMasterSelect, h.rateReqMaster, h.own,
    h.commands⟩) _ _ _ _ (fun f hf t h => ?_) (.refl s)
  have hmem := List.mem_of_mem_drop hf
  simp only [startupSteps, List.mem_cons, List.not_mem_nil, or_false] at hmem
  obtain rfl | rfl | rfl | rfl := hmem
  · exact acquire_leaves (h.trans (prepareEnable t (by decide)))
  · have hhold := h.trans (updateBits t (.inl rfl) t.params.layout.holdEn t.params.layout.holdEn)
    exact ⟨hhold.params, hhold.latches, hhold.refused, hhold.enMasterSelect, hhold.rateReqMaster, hhold.own,
      hhold.commands⟩
  · exact selectAndEnable_leaves (fun u h => h.trans (setParent u))
      (fun u c hc h => h.trans (prepareEnable u (by rcases hc with rfl | rfl <;> decide)))
      (fun u c hc h => h.trans (disableUnprepare u (by rcases hc with rfl | rfl <;> decide))) h
  · exact h.trans (updateBits t (.inr rfl) _ _)

end StartupKeeps

/-- Settles O21: each step of STARTUP keeps the frame, and no fault is set. -/
theorem startupFrame : Obligations.StartupFrame := by
  intro s t h
  have hforeign := exec_keepsForeignBits h
  obtain rfl := next_unique h (exec_startup s)
  have hkeeps := StartupKeeps.startupFrom 1 s
  exact ⟨hkeeps.params, hkeeps.latches, hkeeps.refused, startup_fault s, hkeeps.enMasterSelect, hkeeps.rateReqMaster,
    hkeeps.own, hforeign, hkeeps.commands⟩

/-! ### SHUTDOWN -/

/-- RELEASE turns the three clocks off (R98). -/
theorem release_clk (s : State) :
    (release s).clk = { s.clk with enFast := false, enIface := false, enMaster := false } := by
  simp [release, ClkState.setEn]

/-- Settles O43: RELEASE and the completion. -/
theorem shutdownReleasesTheClocks : Obligations.ShutdownReleasesTheClocks := by
  intro s
  exact ⟨_, exec_shutdown s, release_clk s, rfl, rfl, by simp [Gains, release], by simp, by simp, by simp [release],
    by simp [release], by simp [release], by simp, exec_keepsForeignBits (exec_shutdown s), by simp [release],
    by simp [release]⟩

/-- Settles O44: SHUTDOWN turns every clock off, and neither command sets a fault. -/
theorem shutdownAfterAnyStartup : Obligations.ShutdownAfterAnyStartup := by
  intro s t h
  obtain rfl := next_unique h (exec_startup s)
  obtain ⟨u, hexec, hclk, hresp, -, -, -, -, -, hfault, -⟩ := shutdownReleasesTheClocks (startupFrom 1 s)
  exact ⟨u, hexec, hresp, by simp [hclk, ClkState.en], by simp [hclk, ClkState.en], by simp [hclk, ClkState.en],
    hfault.trans (startup_fault s)⟩

end Sys2Proof.Machine
end

section
/-! CONFIGURE: what it leaves unchanged however it ends (R155), and what each of its five ways to go leaves (R158). -/

namespace Sys2Proof.Machine

/-! ### Masks inside the engine's bits -/

/-- Outside its mask a masked update leaves the engine's bits (R52). -/
theorem own_updateBits_outside (r : Reg) (m v : Word) (s : State) :
    (updateBits r m v s).own r &&& ~~~m = s.own r &&& ~~~m := by
  rw [own_updateBits, if_pos rfl, own_eq]
  apply BitVec.eq_of_getLsbD_eq
  intro i hi
  cases hm : m[i] <;> cases ho : (ownMask s.params r)[i] <;> simp [maskedValue, hm, ho, hi]

/-- Under a mask that lies inside another, the other takes nothing away. -/
theorem and_and_of_subset {m o : Word} (h : m &&& ~~~o = 0) (w : Word) : w &&& o &&& m = w &&& m := by
  apply BitVec.eq_of_getLsbD_eq
  intro i hi
  have hbit := fun hm => bits_subset h hi hm
  cases hm : m.getLsbD i <;> simp_all

/-! ### The frame -/

/-- From `s` to `t` nothing changed but what the stages of CONFIGURE are there to change: the requested rate, the
divider fields, the channel status, the format fields, the response, the marks, the trace and the inputs it draws. -/
structure ConfigureKeeps (s t : State) : Prop where
  params : t.params = s.params
  gate : t.gate = s.gate
  latches : t.latches = s.latches
  refused : t.refused = s.refused
  en : ∀ c, t.clk.en c = s.clk.en c
  parentMaster : t.clk.parentMaster = s.clk.parentMaster
  own : ∀ r, r = .memctrl ∨ r = .holdctrl → t.own r = s.own r
  clkctrl : t.own .clkctrl &&& ~~~(divClearMask s.params.layout) = s.own .clkctrl &&& ~~~(divClearMask s.params.layout)
  fmtctrl : t.own .fmtctrl &&& ~~~(fmtMask s.params) = s.own .fmtctrl &&& ~~~(fmtMask s.params)
  commands : t.env.commands = s.env.commands

namespace ConfigureKeeps

theorem refl (s : State) : ConfigureKeeps s s :=
  ⟨rfl, rfl, rfl, rfl, fun _ => rfl, rfl, fun _ _ => rfl, rfl, rfl, rfl⟩

theorem trans {s t u : State} (h : ConfigureKeeps s t) (h' : ConfigureKeeps t u) : ConfigureKeeps s u where
  params := h'.params.trans h.params
  gate := h'.gate.trans h.gate
  latches := h'.latches.trans h.latches
  refused := h'.refused.trans h.refused
  en c := (h'.en c).trans (h.en c)
  parentMaster := h'.parentMaster.trans h.parentMaster
  own r hr := (h'.own r hr).trans (h.own r hr)
  clkctrl := (h.params ▸ h'.clkctrl).trans h.clkctrl
  fmtctrl := (h.params ▸ h'.fmtctrl).trans h.fmtctrl
  commands := h'.commands.trans h.commands

/-- The divider clear (R156). -/
theorem divClear (s : State) (v : Word) :
    ConfigureKeeps s (updateBits .clkctrl (divClearMask s.params.layout) v s) where
  params := by simp
  gate := by simp
  latches := by simp
  refused := by simp
  en := by simp
  parentMaster := by simp
  own r hr := by rcases hr with rfl | rfl <;> simp [own_updateBits]
  clkctrl := own_updateBits_outside ..
  fmtctrl := by simp [own_updateBits]
  commands := by simp

theorem setRate (hz : Rate) (s : State) : ConfigureKeeps s (setRate hz s).2 where
  params := by simp
  gate := by simp
  latches := by simp
  refused := by simp
  en c := by rw [(setRate_spec hz s).2.1]; split <;> cases c <;> rfl
  parentMaster := by rw [(setRate_spec hz s).2.1]; split <;> rfl
  own := by simp
  clkctrl := by simp
  fmtctrl := by simp
  commands := by simp

theorem csWrite (s : State) : ConfigureKeeps s (csWrite s) where
  params := by simp
  gate := by simp
  latches := by simp
  refused := by simp
  en := by simp
  parentMaster := by simp
  own r hr := by rcases hr with rfl | rfl <;> simp [own_csWrite]
  clkctrl := by simp [own_csWrite]
  fmtctrl := by simp [own_csWrite]
  commands := by simp

/-- FMT_CONFIG's update (R122). -/
theorem format (s : State) (v : Word) : ConfigureKeeps s (updateBits .fmtctrl (fmtMask s.params) v s) where
  params := by simp
  gate := by simp
  latches := by simp
  refused := by simp
  en := by simp
  parentMaster := by simp
  own r hr := by rcases hr with rfl | rfl <;> simp [own_updateBits]
  clkctrl := by simp [own_updateBits]
  fmtctrl := own_updateBits_outside ..
  commands := by simp

/-- Every stage of CONFIGURE keeps it (R155). -/
theorem runSteps (k : Nat) (s : State) : ConfigureKeeps s (runSteps .configure k configureSteps s) := by
  refine runSteps_keeps (fun _ _ _ h => ⟨h.params, h.gate, h.latches, h.refused, h.en, h.parentMaster, h.own, h.clkctrl,
    h.fmtctrl, h.commands⟩) _ _ _ _ (fun f hf t h => ?_) (.refl s)
  simp only [configureSteps, List.mem_cons, List.not_mem_nil, or_false] at hf
  obtain rfl | rfl | rfl | rfl := hf
  · exact cfgClock_leaves ((h.trans (divClear t 0)).trans (setRate ..))
  · exact csCheck_leaves h
  · exact h.trans (csWrite t)
  · exact fmtConfig_leaves (fun v _ => h.trans (format t v)) h

end ConfigureKeeps

/-- A CONFIGURE whose rate is accepted keeps the frame of its stages. -/
theorem configure_keeps {p : Latches} {s : State} (h : rateInRange p.rate = true) :
    ConfigureKeeps (latch p s) (configureFrom 0 (latch p s)) := by
  rw [configure_steps h]
  exact ConfigureKeeps.runSteps 1 _

/-- A CONFIGURE leaves its operands in the latches (R23, R75). -/
@[simp] theorem configure_latches (p : Latches) (s : State) : (configureFrom 0 (latch p s)).latches = p := by
  cases h : rateInRange p.rate
  · rw [configure_refused h]; rfl
  · exact (configure_keeps h).latches

@[simp] theorem configure_gate (p : Latches) (s : State) : (configureFrom 0 (latch p s)).gate = s.gate := by
  cases h : rateInRange p.rate
  · rw [configure_refused h]; rfl
  · exact (configure_keeps h).gate

@[simp] theorem configure_params (p : Latches) (s : State) : (configureFrom 0 (latch p s)).params = s.params := by
  cases h : rateInRange p.rate
  · rw [configure_refused h]; rfl
  · exact (configure_keeps h).params

/-- However a CONFIGURE ends, the engine is idle (R22). -/
@[simp] theorem configure_seq (p : Latches) (s : State) : (configureFrom 0 (latch p s)).seq = .idle :=
  resumeCommand_seq .configure 0 (latch p s)

/-- Settles O24: a refused CONFIGURE changes the mark only, any other keeps the frame of its stages. -/
theorem configureFrame : Obligations.ConfigureFrame := by
  intro s t rate width channels csOk cs h
  have hforeign := exec_keepsForeignBits h
  obtain rfl := next_unique h (exec_configure ..)
  cases hrate : rateInRange rate
  · rw [configure_refused hrate] at hforeign ⊢
    exact ⟨rfl, rfl, rfl, fun _ => rfl, rfl, rfl, rfl, rfl, rfl, hforeign, rfl, by simp⟩
  · have hkeeps := configure_keeps (p := ⟨rate, width, channels, csOk, cs⟩) (s := s) hrate
    exact ⟨hkeeps.params, hkeeps.gate, hkeeps.latches, hkeeps.en, hkeeps.parentMaster, hkeeps.own _ (.inl rfl),
      hkeeps.own _ (.inr rfl), hkeeps.clkctrl, hkeeps.fmtctrl, hforeign, hkeeps.commands,
      by simpa using hkeeps.refused⟩

/-! ### What the stages leave in the registers -/

/-- Stage 1 clears the divider fields (R156). -/
theorem field_stage1 (rate : Rate) (s : State) {f : Field} (hf : f = .divSel ∨ f = .divExtra) :
    (stage1 rate s).field f = 0 := by
  have hreg : f.reg = .clkctrl := by rcases hf with rfl | rfl <;> rfl
  have hpcm : f ≠ .nonPcm := by rcases hf with rfl | rfl <;> decide
  have hunder : s.params.layout.mask f &&& ~~~(divClearMask s.params.layout) = 0 := by
    apply BitVec.eq_of_getLsbD_eq
    intro i hi
    rcases hf with rfl | rfl <;> simp_all [divClearMask, Layout.mask]
  have hclear := field_updateBits_of_subset hunder 0
  rw [hreg] at hclear
  exact (field_congr (by simp) hpcm (by simp [stage1])).trans (hclear.trans (fieldGet_zero _))

/-- Once the rate is accepted the divider fields are 0, whatever the later stages do (R156, R158). -/
theorem configure_divFields {p : Latches} {s : State} (h : rateInRange p.rate = true) :
    (configureFrom 0 (latch p s)).field .divSel = 0 ∧ (configureFrom 0 (latch p s)).field .divExtra = 0 := by
  have hown : (configureFrom 0 (latch p s)).own .clkctrl = (stage1 p.rate s).own .clkctrl := by
    rcases forms_configure p s with h' | ⟨h, e, h0⟩ | ⟨h, h0, h1⟩ | ⟨h, h0, h1, h2⟩ | ⟨h, h0, h1, v, h2⟩
    · rw [h] at h'; cases h'
    · simp [configure_err_rate h h0]
    · simp [configure_err_cs h h0 h1]
    · simp [configure_err_width h h0 h1 h2, own_csWrite]
    · simp [configure_ok h h0 h1 h2, own_updateBits, own_csWrite]
  have hread {f : Field} (hf : f = .divSel ∨ f = .divExtra) : (configureFrom 0 (latch p s)).field f = 0 := by
    refine (field_congr (by simp) ?_ ?_).trans (field_stage1 p.rate s hf)
    · rcases hf with rfl | rfl <;> decide
    · rcases hf with rfl | rfl <;> exact hown
  exact ⟨hread (.inl rfl), hread (.inr rfl)⟩

/-- The packed half-words as the picture of R34 shows them. -/
theorem csWords_zext (cs : CsBytes) :
    (csWord0 cs).zeroExtend 32 = csRegValue cs.b0 cs.b1 ∧ (csWord1 cs).zeroExtend 32 = csRegValue cs.b2 cs.b3 :=
  ⟨pack16_zext .., pack16_zext ..⟩

/-- A CONFIGURE that gets as far as CS_WRITE leaves the packed bytes in the four registers (R112). -/
theorem configure_csRegs {p : Latches} {s : State} (hrate : rateInRange p.rate = true) (hset : s.answer 0 = .ok)
    (hcs : p.csOk = true) :
    (configureFrom 0 (latch p s)).regs.csL0 = csRegValue p.cs.b0 p.cs.b1 ∧
    (configureFrom 0 (latch p s)).regs.csR0 = csRegValue p.cs.b0 p.cs.b1 ∧
    (configureFrom 0 (latch p s)).regs.csL1 = csRegValue p.cs.b2 p.cs.b3 ∧
    (configureFrom 0 (latch p s)).regs.csR1 = csRegValue p.cs.b2 p.cs.b3 := by
  rw [← own_csL0, ← own_csR0, ← own_csL1, ← own_csR1, own_configure_csRegs hrate hset hcs (r := .csL0) (by decide),
    own_configure_csRegs hrate hset hcs (r := .csR0) (by decide),
    own_configure_csRegs hrate hset hcs (r := .csL1) (by decide),
    own_configure_csRegs hrate hset hcs (r := .csR1) (by decide), (csWords_zext p.cs).1, (csWords_zext p.cs).2]
  simp

/-- The low halves of the four registers hold the half-words. -/
theorem configure_csHalves {p : Latches} {s : State} (hrate : rateInRange p.rate = true) (hset : s.answer 0 = .ok)
    (hcs : p.csOk = true) :
    (configureFrom 0 (latch p s)).regs.csL0.extractLsb' 0 16 = csWord0 p.cs ∧
    (configureFrom 0 (latch p s)).regs.csR0.extractLsb' 0 16 = csWord0 p.cs ∧
    (configureFrom 0 (latch p s)).regs.csL1.extractLsb' 0 16 = csWord1 p.cs ∧
    (configureFrom 0 (latch p s)).regs.csR1.extractLsb' 0 16 = csWord1 p.cs := by
  obtain ⟨hL0, hR0, hL1, hR1⟩ := configure_csRegs hrate hset hcs
  rw [hL0, hR0, hL1, hR1, ← (csWords_zext p.cs).1, ← (csWords_zext p.cs).2]
  simp only [lowHalf_zeroExtend, and_self]

/-- Once the provider accepts the rate, it is recorded and no other clock state changes, whatever the later stages do
(R92, R157). -/
theorem configure_clk {p : Latches} {s : State} (h : rateInRange p.rate = true) (h0 : s.answer 0 = .ok) :
    (configureFrom 0 (latch p s)).clk = { s.clk with rateReqMaster := some (p.rate * 128) } := by
  have hclk : (stage1 p.rate s).clk = { s.clk with rateReqMaster := some (p.rate * 128) } := stage1_clk_ok p.rate h0
  rcases forms_configure p s with h' | ⟨h, e, h0'⟩ | ⟨h, h0, h1⟩ | ⟨h, h0, h1, h2⟩ | ⟨h, h0, h1, v, h2⟩
  · rw [h] at h'; cases h'
  · rw [h0] at h0'; cases h0'
  · simp [configure_err_cs h h0 h1, hclk]
  · simp [configure_err_width h h0 h1 h2, hclk]
  · simp [configure_ok h h0 h1 h2, hclk]

/-- A CONFIGURE whose rate is accepted reaches the register bus: with `fast` off the mark of its first access is set, if
none was before (R60, R177). -/
theorem configure_fault_of_accepted {p : Latches} (hrate : rateInRange p.rate = true) (s : State) :
    (configureFrom 0 (latch p s)).fault =
      if s.clk.enFast then s.fault else some (s.fault.getD (.unclockedRegAccess .clkctrl)) := by
  rcases forms_configure p s with h | ⟨h, e, h0⟩ | ⟨h, h0, h1⟩ | ⟨h, h0, h1, h2⟩ | ⟨h, h0, h1, v, h2⟩
  · rw [hrate] at h; cases h
  · simp [configure_err_rate h h0, stage1_fault]
  · simp [configure_err_cs h h0 h1, stage1_fault]
  · cases hfast : s.clk.enFast <;>
      simp [configure_err_width h h0 h1 h2, csWrite, write_fault, stage1_fault, hfast]
  · cases hfast : s.clk.enFast <;>
      simp [configure_ok h h0 h1 h2, updateBits_fault, csWrite, write_fault, stage1_fault, hfast]

/-- With `fast` on a CONFIGURE sets no fault mark (R60). -/
theorem configure_fault (p : Latches) {s : State} (hfast : s.clk.enFast = true) :
    (configureFrom 0 (latch p s)).fault = s.fault := by
  cases hrate : rateInRange p.rate
  · rw [configure_refused hrate]; rfl
  · rw [configure_fault_of_accepted hrate, if_pos hfast]

/-- The engine's bits of `FMTCTRL` change only where a format is written (R122, R123). -/
theorem configure_fmtctrl_of_no_format {p : Latches} {s : State}
    (h : p.csOk = false ∨ (∃ e, s.answer 0 = .err e) ∨ fmtVal s.params.layout p.width = none) :
    (configureFrom 0 (latch p s)).own .fmtctrl = s.own .fmtctrl := by
  rcases forms_configure p s with hr | ⟨hr, e, h0⟩ | ⟨hr, h0, h1⟩ | ⟨hr, h0, h1, h2⟩ | ⟨hr, h0, h1, v, h2⟩
  · simp [configure_refused hr]
  · simp [configure_err_rate hr h0, own_stage1]
  · simp [configure_err_cs hr h0 h1, own_stage1]
  · simp [configure_err_width hr h0 h1 h2, own_csWrite, own_stage1]
  · simp_all

/-! ### A CONFIGURE in which no stage fails -/

/-- Under the format mask the engine's bits of `FMTCTRL` are the format value (R120, R122). -/
theorem configure_fmtctrl {p : Latches} {s : State} {v : Word} (h : rateInRange p.rate = true)
    (h0 : s.answer 0 = .ok) (hc : p.csOk = true) (hv : fmtVal s.params.layout p.width = some v) :
    (configureFrom 0 (latch p s)).own .fmtctrl &&& fmtMask s.params = v := by
  rw [configure_ok h h0 hc hv, own_complete, own_updateBits, if_pos rfl]
  simp only [csWrite_params, latch_params, stage1_params]
  rw [and_and_of_subset (fmtMask_own s.params), maskedValue_fmt hv]

/-- The seven transactions of a CONFIGURE in which no stage fails (R155). -/
theorem gains_configure_ok {p : Latches} {s : State} {v : Word} (h : rateInRange p.rate = true)
    (h0 : s.answer 0 = .ok) (hc : p.csOk = true) (hv : fmtVal s.params.layout p.width = some v) :
    Gains s (configureFrom 0 (latch p s))
      [.regUpdateBits .clkctrl (s.params.layout.divSel ||| s.params.layout.divExtra) 0,
        .clkSetRate .master (p.rate * 128) .ok,
        .regWrite .csL0 (csRegValue p.cs.b0 p.cs.b1), .regWrite .csR0 (csRegValue p.cs.b0 p.cs.b1),
        .regWrite .csL1 (csRegValue p.cs.b2 p.cs.b3), .regWrite .csR1 (csRegValue p.cs.b2 p.cs.b3),
        .regUpdateBits .fmtctrl (fmtMask s.params) v] := by
  simp only [Gains, configure_ok h h0 hc hv, ← (csWords_zext p.cs).1, ← (csWords_zext p.cs).2]
  simp [h0, divClearMask, masterTarget]

/-- The format values written out width by width (R120). -/
theorem fmtVal_eq_some {L : Layout} {width : Byte} {v : Word}
    (h : width = 16 ∧ v = L.mode16 ||| fieldPut L.align16 2 ||| L.ufs ||| L.flr ∨
      (width = 24 ∨ width = 32) ∧ v = L.mode32 ||| L.ufs ||| L.flr) : fmtVal L width = some v := by
  rcases h with ⟨rfl, rfl⟩ | ⟨rfl | rfl, rfl⟩ <;> rfl

/-- Settles O22, from the form of a CONFIGURE in which no stage fails. -/
theorem configureProgramsTheStream : Obligations.ConfigureProgramsTheStream := by
  intro s rate width channels cs v _ hfast h0 hpos hlt hformat
  have hrate : rateInRange rate = true := rateInRange_of_bounds hpos hlt
  have hv := fmtVal_eq_some hformat
  have hkeeps := configure_keeps (p := ⟨rate, width, channels, true, cs⟩) (s := s) hrate
  obtain ⟨hsel, hextra⟩ := configure_divFields (p := ⟨rate, width, channels, true, cs⟩) (s := s) hrate
  obtain ⟨hL0, hR0, hL1, hR1⟩ := configure_csRegs (p := ⟨rate, width, channels, true, cs⟩) hrate h0 rfl
  exact ⟨_, exec_configure rate width channels true cs s, hsel, hextra, configure_clk hrate h0, hL0, hR0, hL1, hR1,
    configure_fmtctrl hrate h0 rfl hv, hkeeps.fmtctrl, by rw [configure_ok hrate h0 rfl hv, complete_resp],
    configure_seq .., configure_fault _ hfast, hkeeps.refused, gains_configure_ok hrate h0 rfl hv⟩

/-! ### The failures -/

/-- A rate out of range is refused (R159). -/
theorem rateInRange_eq_false {rate : Rate} (h : rate.toNat = 0 ∨ 2 ^ 57 ≤ rate.toNat) : rateInRange rate = false := by
  simp only [rateInRange, Bool.and_eq_false_iff, decide_eq_false_iff_not]
  omega

/-- No width but the three has a format value (R120). -/
theorem fmtVal_eq_none (L : Layout) {width : Byte} (h16 : width ≠ 16) (h24 : width ≠ 24) (h32 : width ≠ 32) :
    fmtVal L width = none := by
  rw [fmtVal, if_neg h16, if_neg h24, if_neg h32]

/-- Where CONFIGURE ends before CS_WRITE, it has changed no register but `CLKCTRL` (R158). -/
theorem own_raise_stage1 (e : Resp) (p : Latches) (s : State) (r : Reg) (hr : r ≠ .clkctrl) :
    (raise e (latch p (stage1 p.rate s))).own r = s.own r := by
  rw [own_raise, own_latch, own_stage1, if_neg hr]

/-- The six transactions of a CONFIGURE that finds no format for its width (R123, R158). -/
theorem gains_configure_err_width {p : Latches} {s : State} (h : rateInRange p.rate = true) (h0 : s.answer 0 = .ok)
    (hc : p.csOk = true) (hv : fmtVal s.params.layout p.width = none) :
    Gains s (configureFrom 0 (latch p s))
      [.regUpdateBits .clkctrl (s.params.layout.divSel ||| s.params.layout.divExtra) 0,
        .clkSetRate .master (p.rate * 128) .ok,
        .regWrite .csL0 (csRegValue p.cs.b0 p.cs.b1), .regWrite .csR0 (csRegValue p.cs.b0 p.cs.b1),
        .regWrite .csL1 (csRegValue p.cs.b2 p.cs.b3), .regWrite .csR1 (csRegValue p.cs.b2 p.cs.b3)] := by
  simp only [Gains, configure_err_width h h0 hc hv, ← (csWords_zext p.cs).1, ← (csWords_zext p.cs).2]
  simp [h0, divClearMask, masterTarget]

/-- Settles O23, row by row. -/
theorem configureFailureTable : Obligations.ConfigureFailureTable := by
  intro s rate width channels csOk cs e _
  have hexec := exec_configure rate width channels csOk cs s
  refine ⟨fun hrange => ⟨_, hexec, ?_⟩, fun hpos hlt hfast h0 => ⟨_, hexec, ?_⟩,
    fun hpos hlt hfast h0 hc => ⟨_, hexec, ?_⟩, fun hpos hlt hfast h0 hc h16 h24 h32 => ⟨_, hexec, ?_⟩⟩
  · rw [configure_refused (rateInRange_eq_false hrange)]
    exact ⟨rfl, rfl, rfl, rfl, rfl, rfl, rfl, rfl⟩
  · have hrate : rateInRange rate = true := rateInRange_of_bounds hpos hlt
    obtain ⟨hsel, hextra⟩ := configure_divFields (p := ⟨rate, width, channels, csOk, cs⟩) (s := s) hrate
    rw [configure_err_rate hrate h0] at hsel hextra ⊢
    exact ⟨rfl, hsel, hextra, stage1_clk_err rate h0, own_raise_stage1 _ _ s,
      by simp [Gains, h0, divClearMask, masterTarget], rfl⟩
  · have hrate : rateInRange rate = true := rateInRange_of_bounds hpos hlt
    obtain ⟨hsel, hextra⟩ := configure_divFields (p := ⟨rate, width, channels, csOk, cs⟩) (s := s) hrate
    rw [configure_err_cs hrate h0 hc] at hsel hextra ⊢
    exact ⟨rfl, hsel, hextra, stage1_clk_ok rate h0, own_raise_stage1 _ _ s,
      by simp [Gains, h0, divClearMask, masterTarget], rfl⟩
  · have hrate : rateInRange rate = true := rateInRange_of_bounds hpos hlt
    have hv := fmtVal_eq_none s.params.layout h16 h24 h32
    obtain ⟨hsel, hextra⟩ := configure_divFields (p := ⟨rate, width, channels, csOk, cs⟩) (s := s) hrate
    obtain ⟨hL0, hR0, hL1, hR1⟩ := configure_csRegs (p := ⟨rate, width, channels, csOk, cs⟩) hrate h0 hc
    refine ⟨?_, hsel, hextra, configure_clk hrate h0, hL0, hR0, hL1, hR1,
      configure_fmtctrl_of_no_format (.inr (.inr hv)), gains_configure_err_width hrate h0 hc hv, configure_seq ..⟩
    rw [configure_err_width hrate h0 hc hv, raise_resp]

end Sys2Proof.Machine
end

section
/-! CONFIGURE compared with itself: which operands change nothing but their latch (R74, R122, R159), what the bytes can
change (R113), the rejected widths (R123), the target (R157), and a repetition (R54). -/

namespace Sys2Proof.Machine

/-! ### The target -/

/-- The target of an accepted rate does not overflow (R157, R159). -/
theorem masterTarget_toNat {rate : Rate} (h : rate.toNat < 2 ^ 57) : (masterTarget rate).toNat = rate.toNat * 128 := by
  rw [masterTarget, BitVec.toNat_mul]
  exact Nat.mod_eq_of_lt (by simp; omega)

/-- Settles O25: the recorded rate is the target, which does not overflow. -/
theorem masterTargetIsRateTimes128 : Obligations.MasterTargetIsRateTimes128 := by
  refine ⟨fun rate _ hlt => masterTarget_toNat hlt, fun s rate width channels csOk cs _ h0 hpos hlt => ?_, by decide⟩
  refine ⟨_, masterTarget rate, exec_configure rate width channels csOk cs s, ?_, masterTarget_toNat hlt⟩
  rw [configure_clk (rateInRange_of_bounds hpos hlt) h0, masterTarget]

/-! ### Operands that are not read -/

theorem latch_latch (p q : Latches) (s : State) : latch p (latch q s) = latch p s := rfl

/-- A state with its latches written again is the same state. -/
theorem latch_self {p : Latches} {s : State} (h : s.latches = p) : latch p s = s := by subst h; rfl

/-- CS_WRITE reads the bytes of the latches only (R112). -/
theorem csWrite_latch_congr {p p' : Latches} (h : p'.cs = p.cs) (s : State) :
    csWrite (latch p' s) = latch p' (csWrite (latch p s)) := by
  simp only [csWrite, latch_latches, write_latch, latch_latch, h]

/-- CONFIGURE reads the rate, the flag, the format value of the width, and the bytes if the flag is set: two latches
that agree on these give the same end state but for the latches (R74, R122, R159). -/
theorem configure_latch_congr {p p' : Latches} {s : State} (hrate : p'.rate = p.rate) (hok : p'.csOk = p.csOk)
    (hwidth : fmtVal s.params.layout p'.width = fmtVal s.params.layout p.width)
    (hcs : p.csOk = true → p'.cs = p.cs) :
    configureFrom 0 (latch p' s) = latch p' (configureFrom 0 (latch p s)) := by
  rcases forms_configure p s with h | ⟨h, e, h0⟩ | ⟨h, h0, h1⟩ | ⟨h, h0, h1, h2⟩ | ⟨h, h0, h1, v, h2⟩
  · rw [configure_refused h, configure_refused (hrate ▸ h)]
    rfl
  · rw [configure_err_rate h h0, configure_err_rate (hrate ▸ h) h0, hrate]
    rfl
  · rw [configure_err_cs h h0 h1, configure_err_cs (hrate ▸ h) h0 (hok.trans h1), hrate]
    rfl
  · rw [configure_err_width h h0 h1 h2, configure_err_width (hrate ▸ h) h0 (hok.trans h1) (hwidth.trans h2), hrate,
      csWrite_latch_congr (hcs h1)]
    rfl
  · rw [configure_ok h h0 h1 h2, configure_ok (hrate ▸ h) h0 (hok.trans h1) (hwidth.trans h2), hrate,
      csWrite_latch_congr (hcs h1), updateBits_latch]
    rfl

/-- Settles O26: the latches differ in the count, which is not read. -/
theorem channelCountIsNeverRead : Obligations.ChannelCountIsNeverRead := by
  intro s rate width ch ch' csOk cs
  refine ⟨_, _, exec_configure .., exec_configure .., ?_⟩
  rw [configure_latch_congr (p := ⟨rate, width, ch, csOk, cs⟩) (p' := ⟨rate, width, ch', csOk, cs⟩) rfl rfl rfl
    fun _ => rfl]
  exact latch_self (configure_latches ..)

/-- Settles O27: both widths have the same format value. -/
theorem width24ActsAsWidth32 : Obligations.Width24ActsAsWidth32 := by
  intro s rate channels csOk cs
  refine ⟨_, _, exec_configure .., exec_configure .., ?_⟩
  rw [configure_latch_congr (p := ⟨rate, 24, channels, csOk, cs⟩) (p' := ⟨rate, 32, channels, csOk, cs⟩) rfl rfl rfl
    fun _ => rfl]
  exact latch_self (configure_latches ..)

/-- Settles O28: with the flag off the bytes are not read. -/
theorem failedEncodeIgnoresTheBytes : Obligations.FailedEncodeIgnoresTheBytes := by
  intro s rate width channels cs cs'
  refine ⟨_, _, exec_configure .., exec_configure .., ?_⟩
  rw [configure_latch_congr (p := ⟨rate, width, channels, false, cs⟩) (p' := ⟨rate, width, channels, false, cs'⟩)
    rfl rfl rfl fun h => by cases h]
  exact latch_self (configure_latches ..)

/-! ### The rejected widths -/

/-- Once CONFIGURE gets as far as FMT_CONFIG, it answers `UnsupportedFormatError` exactly when the width has no format
value (R123). -/
theorem configure_unsupported_iff {p : Latches} {s : State} (hrate : rateInRange p.rate = true) (h0 : s.answer 0 = .ok)
    (hc : p.csOk = true) :
    (configureFrom 0 (latch p s)).resp = .unsupportedFormatError ↔ fmtVal s.params.layout p.width = none := by
  cases hv : fmtVal s.params.layout p.width with
  | none => simp [configure_err_width hrate h0 hc hv]
  | some v => simp [configure_ok hrate h0 hc hv]

theorem fmtVal_eq_none_iff (L : Layout) (width : Byte) :
    fmtVal L width = none ↔ width ≠ 16 ∧ width ≠ 24 ∧ width ≠ 32 := by
  constructor
  · intro h
    refine ⟨?_, ?_, ?_⟩ <;> rintro rfl <;> cases h
  · exact fun ⟨h16, h24, h32⟩ => fmtVal_eq_none L h16 h24 h32

/-- Settles O33: the widths with no format value are the others, and FMT_CONFIG issues nothing for them. -/
theorem unsupportedWidthIsRejected : Obligations.UnsupportedWidthIsRejected := by
  intro s rate width channels cs _ h0 hpos hlt
  have hrate : rateInRange rate = true := rateInRange_of_bounds hpos hlt
  have hexec := exec_configure rate width channels true cs s
  have hiff := configure_unsupported_iff (p := ⟨rate, width, channels, true, cs⟩) hrate h0 rfl
  rw [← fmtVal_eq_none_iff s.params.layout, ← hiff]
  refine ⟨⟨fun h => ⟨_, hexec, h⟩, ?_⟩, ?_⟩
  · rintro ⟨t, ht, hresp⟩
    obtain rfl := next_unique ht hexec
    exact hresp
  · intro t ht hresp
    obtain rfl := next_unique ht hexec
    have hv := hiff.mp hresp
    obtain ⟨hsel, hextra⟩ := configure_divFields (p := ⟨rate, width, channels, true, cs⟩) (s := s) hrate
    obtain ⟨hL0, hR0, hL1, hR1⟩ := configure_csHalves (p := ⟨rate, width, channels, true, cs⟩) hrate h0 rfl
    exact ⟨configure_fmtctrl_of_no_format (.inr (.inr hv)), by rw [configure_clk hrate h0], hsel, hextra, hL0, hR0, hL1,
      hR1, _, gains_configure_err_width hrate h0 rfl hv, by simp [Transaction.target]⟩

/-! ### What the bytes can change -/

/-- The same transaction, or two whole writes of one register. -/
def SameButValue (x y : Transaction) : Prop := x = y ∨ ∃ r v w, x = .regWrite r v ∧ y = .regWrite r w

/-- `t` and `t'` differ in the latches, in the channel-status registers and in the values of whole writes only. -/
structure SameButStatus (t t' : State) : Prop where
  params : t'.params = t.params
  gate : t'.gate = t.gate
  seq : t'.seq = t.seq
  resp : t'.resp = t.resp
  fault : t'.fault = t.fault
  refused : t'.refused = t.refused
  clk : t'.clk = t.clk
  regs : ∀ r ∉ csRegs, t'.regs.get r = t.regs.get r
  trace : List.Forall₂ SameButValue t.trace t'.trace
  env : t'.env = t.env

namespace SameButStatus

variable {t t' : State}

theorem latch (p p' : Latches) (s : State) : SameButStatus (latch p s) (latch p' s) :=
  ⟨rfl, rfl, rfl, rfl, rfl, rfl, rfl, fun _ _ => rfl, List.forall₂_same.mpr fun _ _ => .inl rfl, rfl⟩

theorem raise (h : SameButStatus t t') (e : Resp) : SameButStatus (raise e t) (raise e t') :=
  ⟨h.params, h.gate, rfl, rfl, h.fault, h.refused, h.clk, h.regs, h.trace, h.env⟩

theorem complete (h : SameButStatus t t') : SameButStatus (complete t) (complete t') :=
  ⟨h.params, h.gate, rfl, rfl, h.fault, h.refused, h.clk, h.regs, h.trace, h.env⟩

theorem refuseRate (h : SameButStatus t t') : SameButStatus (refuseRate t) (refuseRate t') :=
  ⟨h.params, h.gate, rfl, h.resp, h.fault, rfl, h.clk, h.regs, h.trace, h.env⟩

/-- The foreign agents draw the same change, and they change control registers only (R63). -/
theorem foreignActs (h : SameButStatus t t') : SameButStatus (foreignActs t) (foreignActs t') := by
  have hdraw : (drawForeign t').1 = (drawForeign t).1 := by
    unfold drawForeign; rw [h.env]; split <;> rfl
  refine ⟨by simpa using h.params, by simpa using h.gate, by simpa using h.seq, by simpa using h.resp,
    by simpa using h.fault, by simpa using h.refused, by simpa using h.clk, fun r hr => ?_, by simpa using h.trace, ?_⟩
  · have hreg := h.regs r hr
    simp only [Machine.foreignActs, drawForeign_regs, hdraw, h.params]
    cases r
    case csL0 | csR0 | csL1 | csR1 => exact absurd (by decide) hr
    all_goals exact congrArg (fun w => foreignValue _ w _) hreg
  · simp only [Machine.foreignActs, drawForeign, h.env]; split <;> rfl

theorem write (h : SameButStatus t t') {r : Reg} (hr : r ∈ csRegs) (v w : Word) :
    SameButStatus (write r v t) (write r w t') where
  params := by simpa using h.params
  gate := by simpa using h.gate
  seq := by simpa using h.seq
  resp := by simpa using h.resp
  fault := by rw [write_fault, write_fault, h.fault, h.clk]
  refused := by simpa using h.refused
  clk := by simpa using h.clk
  regs r' hr' := by
    have hne : r' ≠ r := by rintro rfl; exact hr' hr
    rw [write_regs, write_regs, get_set_ne _ _ hne, get_set_ne _ _ hne]
    exact h.foreignActs.regs r' hr'
  trace := by
    rw [write_trace, write_trace]
    exact List.rel_append h.trace (.cons (.inr ⟨r, v, w, rfl, rfl⟩) .nil)
  env := by simpa using h.foreignActs.env

theorem updateBits (h : SameButStatus t t') {r : Reg} (hr : r ∉ csRegs) (m v : Word) :
    SameButStatus (updateBits r m v t) (updateBits r m v t') where
  params := by simpa using h.params
  gate := by simpa using h.gate
  seq := by simpa using h.seq
  resp := by simpa using h.resp
  fault := by rw [updateBits_fault, updateBits_fault, h.fault, h.clk]
  refused := by simpa using h.refused
  clk := by simpa using h.clk
  regs r' hr' := by
    simp only [updateBits_regs, get_set, h.foreignActs.regs r hr, h.foreignActs.regs r' hr']
  trace := by
    rw [updateBits_trace, updateBits_trace]
    exact List.rel_append h.trace (.cons (.inl rfl) .nil)
  env := by simpa using h.foreignActs.env

theorem csWrite (h : SameButStatus t t') : SameButStatus (csWrite t) (csWrite t') :=
  (((h.write (by decide) _ _).write (by decide) _ _).write (by decide) _ _).write (by decide) _ _

end SameButStatus

/-- The bytes change nothing but the channel-status registers and their writes (R113). -/
theorem configure_sameButStatus (p : Latches) (cs' : CsBytes) (s : State) :
    SameButStatus (configureFrom 0 (latch p s)) (configureFrom 0 (latch { p with cs := cs' } s)) := by
  have hstart (u : State) := SameButStatus.latch p { p with cs := cs' } u
  rcases forms_configure p s with h | ⟨h, e, h0⟩ | ⟨h, h0, h1⟩ | ⟨h, h0, h1, h2⟩ | ⟨h, h0, h1, v, h2⟩
  · rw [configure_refused h, configure_refused (p := { p with cs := cs' }) h]
    exact (hstart s).refuseRate
  · rw [configure_err_rate h h0, configure_err_rate (p := { p with cs := cs' }) h h0]
    exact (hstart _).raise _
  · rw [configure_err_cs h h0 h1, configure_err_cs (p := { p with cs := cs' }) h h0 h1]
    exact (hstart _).raise _
  · rw [configure_err_width h h0 h1 h2, configure_err_width (p := { p with cs := cs' }) h h0 h1 h2]
    exact (hstart _).csWrite.raise _
  · rw [configure_ok h h0 h1 h2, configure_ok (p := { p with cs := cs' }) h h0 h1 h2]
    exact ((hstart _).csWrite.updateBits (by decide) _ _).complete

/-- Related lists are related position by position. -/
theorem forall₂_getElem? {α : Type} {R : α → α → Prop} {l l' : List α} (h : List.Forall₂ R l l') (k : Nat) :
    ∀ x ∈ l[k]?, ∀ y ∈ l'[k]?, R x y := by
  intro x hx y hy
  obtain ⟨hk, rfl⟩ := List.getElem?_eq_some_iff.mp hx
  obtain ⟨hk', rfl⟩ := List.getElem?_eq_some_iff.mp hy
  exact h.get hk hk'

/-- Settles O29: the two runs go through the same stages, and CS_WRITE alone tells them apart. -/
theorem statusBytesChangeNothingElse : Obligations.StatusBytesChangeNothingElse := by
  intro s rate width channels cs cs'
  have hsame := configure_sameButStatus ⟨rate, width, channels, true, cs⟩ cs' s
  refine ⟨_, _, exec_configure .., exec_configure .., hsame.resp, hsame.fault, hsame.refused, hsame.gate, hsame.clk,
    hsame.seq, hsame.params, hsame.env, hsame.trace.length_eq.symm, fun r hr => hsame.regs r ?_,
    forall₂_getElem? hsame.trace, fun h0 hpos hlt => ?_⟩
  · rcases hr with rfl | rfl | rfl | rfl <;> decide
  · have hrate : rateInRange rate = true := rateInRange_of_bounds hpos hlt
    refine ⟨?_, configure_csHalves (p := ⟨rate, width, channels, true, cs⟩) hrate h0 rfl⟩
    cases hv : fmtVal s.params.layout width with
    | none => simp [configure_err_width (p := ⟨rate, width, channels, true, cs⟩) hrate h0 rfl hv]
    | some v => simp [configure_ok (p := ⟨rate, width, channels, true, cs⟩) hrate h0 rfl hv]

/-! ### A repetition -/

/-- A CONFIGURE that is not refused had its rate accepted (R176). -/
theorem rateInRange_of_not_refused {p : Latches} {s : State} (h : (configureFrom 0 (latch p s)).refused = false) :
    rateInRange p.rate = true := by
  cases hrate : rateInRange p.rate
  · rw [configure_refused hrate] at h
    cases h
  · rfl

/-- An accepted CONFIGURE that answers `Ok` ran all its stages (R155). -/
theorem configure_stages_of_ok {p : Latches} {s : State} (hrate : rateInRange p.rate = true)
    (h : (configureFrom 0 (latch p s)).resp = .ok) :
    s.answer 0 = .ok ∧ p.csOk = true ∧ ∃ v, fmtVal s.params.layout p.width = some v := by
  rcases forms_configure p s with h' | ⟨hr, e, h0⟩ | ⟨hr, h0, h1⟩ | ⟨hr, h0, h1, h2⟩ | ⟨hr, h0, h1, h2⟩
  · rw [hrate] at h'; cases h'
  · rw [configure_err_rate hr h0] at h; cases h
  · rw [configure_err_cs hr h0 h1] at h; cases h
  · rw [configure_err_width hr h0 h1 h2] at h; cases h
  · exact ⟨h0, h1, h2⟩

/-- The engine's bits after a CONFIGURE in which no stage fails, register by register (R155). -/
theorem own_configure_ok {p : Latches} {s : State} {v : Word} (h : rateInRange p.rate = true) (h0 : s.answer 0 = .ok)
    (hc : p.csOk = true) (hv : fmtVal s.params.layout p.width = some v) (r : Reg) :
    (configureFrom 0 (latch p s)).own r =
      match r with
      | .clkctrl => maskedValue (s.own .clkctrl) (divClearMask s.params.layout) 0 &&& ownMask s.params .clkctrl
      | .fmtctrl => maskedValue (s.own .fmtctrl) (fmtMask s.params) v &&& ownMask s.params .fmtctrl
      | .csL0 | .csR0 => (csWord0 p.cs).zeroExtend 32
      | .csL1 | .csR1 => (csWord1 p.cs).zeroExtend 32
      | .memctrl | .holdctrl => s.own r := by
  rw [configure_ok h h0 hc hv]
  cases r <;> simp [own_updateBits, own_csWrite, own_stage1, -own_csL0, -own_csR0, -own_csL1, -own_csR1]

section
variable {p : Latches} {s : State} {v : Word} (h : rateInRange p.rate = true) (h0 : s.answer 0 = .ok)
  (hc : p.csOk = true) (hv : fmtVal s.params.layout p.width = some v)
  (h0' : (configureFrom 0 (latch p s)).answer 0 = .ok)
include h h0 h0'

include hc hv in
/-- The second run writes the same values over the same masks. -/
theorem own_configure_again (r : Reg) :
    (configureFrom 0 (latch p (configureFrom 0 (latch p s)))).own r = (configureFrom 0 (latch p s)).own r := by
  have hv' : fmtVal (configureFrom 0 (latch p s)).params.layout p.width = some v := by simpa using hv
  rw [own_configure_ok h h0' hc hv']
  have hown := own_configure_ok h h0 hc hv
  cases r
  case clkctrl | fmtctrl => simp only [hown, configure_params, maskedValue_again]
  all_goals simp only [hown]

theorem clk_configure_again :
    (configureFrom 0 (latch p (configureFrom 0 (latch p s)))).clk = (configureFrom 0 (latch p s)).clk := by
  rw [configure_clk h h0', configure_clk h h0]

end

/-- The first run has set the fault mark if there was one to set. -/
theorem fault_configure_again {p : Latches} (h : rateInRange p.rate = true) (s : State) :
    (configureFrom 0 (latch p (configureFrom 0 (latch p s)))).fault = (configureFrom 0 (latch p s)).fault := by
  have hfast : (configureFrom 0 (latch p s)).clk.enFast = s.clk.enFast := (configure_keeps h).en .fast
  rw [configure_fault_of_accepted h, hfast, configure_fault_of_accepted h]
  split <;> rfl

/-- Settles O34: both runs pass every stage, so the second finds what it writes. -/
theorem configureMayBeRepeated : Obligations.ConfigureMayBeRepeated := by
  intro s t u rate width channels cs hst htresp htrefused htu huresp
  obtain rfl := next_unique hst (exec_configure ..)
  obtain rfl := next_unique htu (exec_configure ..)
  have hrate : rateInRange rate = true := rateInRange_of_not_refused htrefused
  obtain ⟨hs0, hc, v, hv⟩ := configure_stages_of_ok hrate htresp
  obtain ⟨ht0, -, -⟩ := configure_stages_of_ok hrate huresp
  exact ⟨own_configure_again hrate hs0 hc hv ht0, clk_configure_again hrate hs0 ht0, configure_gate ..,
    fault_configure_again hrate s, (configure_latches ..).trans (configure_latches ..).symm⟩

end Sys2Proof.Machine
end

section
/-! The six named TRIGGERs (R130 to R135), and the gate: who writes it (R21) and that nobody reads it (R37). -/

namespace Sys2Proof.Machine

/-! ### The frame of the gate sequences -/

/-- Setting one field and then clearing another changes, in the registers of the two, no bit outside them. -/
theorem own_clearField_setField_outside (s : State) {f g : Field} (hreg : f.reg ≠ g.reg) :
    (clearField g (setField f s)).own f.reg &&& ~~~(s.params.layout.mask f) =
        s.own f.reg &&& ~~~(s.params.layout.mask f) ∧
      (clearField g (setField f s)).own g.reg &&& ~~~(s.params.layout.mask g) =
        s.own g.reg &&& ~~~(s.params.layout.mask g) := by
  have hparams : (setField f s).params = s.params := updateBits_params ..
  constructor
  · rw [clearField, own_updateBits, if_neg hreg]
    exact own_updateBits_outside ..
  · rw [clearField, hparams, own_updateBits_outside, setField, own_updateBits, if_neg hreg.symm]

/-- It leaves every other register. -/
theorem own_clearField_setField_of_ne (s : State) {f g : Field} {r : Reg} (hf : r ≠ f.reg) (hg : r ≠ g.reg) :
    (clearField g (setField f s)).own r = s.own r := by
  rw [clearField, own_updateBits, if_neg hg, setField, own_updateBits, if_neg hf]

/-- What both gate sequences leave, whatever fields they write: all of the state but the gate, the response and their
two registers. -/
structure TriggerKeeps (s t : State) : Prop where
  params : t.params = s.params
  latches : t.latches = s.latches
  refused : t.refused = s.refused
  clk : t.clk = s.clk
  commands : t.env.commands = s.env.commands
  clkAnswers : t.env.clkAnswers = s.env.clkAnswers

theorem triggerKeeps_sequence (s : State) (f g : Field) (x : Gate) :
    TriggerKeeps s (complete (setGate x (clearField g (setField f s)))) := by
  constructor <;> simp [clearField, setField]

/-- Settles O37, for the two gate sequences. -/
theorem triggerFrame : Obligations.TriggerFrame := by
  intro s t i hi h
  have hforeign := exec_keepsForeignBits h
  by_cases hstart : i = .triggerStart ∨ i = .triggerResume ∨ i = .triggerPauseRelease
  · obtain rfl := next_unique h (exec_startClass hstart s)
    rw [gateStart_eq] at hforeign ⊢
    have hkeeps := triggerKeeps_sequence s .divEn .holdEn .flowing
    obtain ⟨hdiv, hhold⟩ := own_clearField_setField_outside s (f := .divEn) (g := .holdEn) (by decide)
    refine ⟨hkeeps.params, hkeeps.latches, hkeeps.refused, hkeeps.clk,
      fun r hc hh => own_clearField_setField_of_ne s (f := .divEn) (g := .holdEn) hc hh, hdiv, hhold, hforeign,
      hkeeps.commands, hkeeps.clkAnswers, fun _ => gains_clearField_setField s .divEn .holdEn, fun hstop => ?_⟩
    rcases hstart with rfl | rfl | rfl <;> simp at hstop
  · have hstop : i = .triggerStop ∨ i = .triggerSuspend ∨ i = .triggerPausePush := by tauto
    obtain rfl := next_unique h (exec_stopClass hstop s)
    rw [gateStop_eq] at hforeign ⊢
    have hkeeps := triggerKeeps_sequence s .holdEn .divEn .held
    obtain ⟨hhold, hdiv⟩ := own_clearField_setField_outside s (f := .holdEn) (g := .divEn) (by decide)
    exact ⟨hkeeps.params, hkeeps.latches, hkeeps.refused, hkeeps.clk,
      fun r hc hh => own_clearField_setField_of_ne s (f := .holdEn) (g := .divEn) hh hc, hdiv, hhold, hforeign,
      hkeeps.commands, hkeeps.clkAnswers, fun h => absurd h hstart, fun _ => gains_clearField_setField s .holdEn .divEn⟩

/-! ### Who writes the gate -/

/-- STARTUP leaves the gate alone, or holds it (R150, R153). -/
theorem startup_gate (s : State) : (startupFrom 1 s).gate = s.gate ∨ (startupFrom 1 s).gate = .held := by
  rcases forms_startup s with ⟨h0, h1, h2, h3⟩ | ⟨e, h0⟩ | ⟨e, h0, h1⟩ | ⟨e, h0, h1, h2⟩ | ⟨e, h0, h1, h2, h3⟩
  · exact .inr (startup_ok_gate h0 h1 h2 h3)
  · exact .inl (by simp [startup_err_fast h0])
  · exact .inr (by simp [startup_err_parent h0 h1])
  · exact .inr (by simp [startup_err_iface h0 h1 h2])
  · exact .inr (by simp [startup_err_master h0 h1 h2 h3])

/-- Settles O41, command by command. -/
theorem onlyStartupAndTriggersWriteTheGate : Obligations.OnlyStartupAndTriggersWriteTheGate := by
  intro i s t h hne
  cases i
  case startup =>
    obtain rfl := next_unique h (exec_startup s)
    exact .inl ⟨rfl, (startup_gate s).resolve_left hne⟩
  case configure =>
    obtain rfl := next_unique h (exec_configure ..)
    exact absurd (configure_gate ..) hne
  case shutdown =>
    obtain rfl := next_unique h (exec_shutdown s)
    exact absurd (release_gate s) hne
  case triggerInvalid =>
    obtain rfl := next_unique h (exec_triggerInvalid ..)
    exact absurd rfl hne
  case triggerStart | triggerResume | triggerPauseRelease =>
    obtain rfl := next_unique h (exec_startClass (by decide) s)
    exact .inr (.inl ⟨by decide, rfl⟩)
  case triggerStop | triggerSuspend | triggerPausePush =>
    obtain rfl := next_unique h (exec_stopClass (by decide) s)
    exact .inr (.inr ⟨by decide, rfl⟩)

/-! ### Nobody reads the gate -/

/-- The operations that write the gate end the same whatever it was. -/
theorem defensiveHold_setGate (g : Gate) (s : State) : defensiveHold (setGate g s) = defensiveHold s := by
  simp only [defensiveHold, holdSet, setGate_params, updateBits_setGate]
  rfl

theorem gateStart_setGate (g : Gate) (s : State) : gateStart (setGate g s) = gateStart s := by
  simp only [gateStart, divEnable, holdClear, setGate_params, updateBits_setGate]
  rfl

theorem gateStop_setGate (g : Gate) (s : State) : gateStop (setGate g s) = gateStop s := by
  simp only [gateStop, divDisable, holdSet, setGate_params, updateBits_setGate]
  rfl

theorem release_setGate (g : Gate) (s : State) : release (setGate g s) = setGate g (release s) := by
  simp only [release, disableUnprepare_setGate]

theorem stage1_setGate (rate : Rate) (g : Gate) (s : State) :
    stage1 rate (setGate g s) = setGate g (stage1 rate s) := by
  simp only [stage1, setGate_params, updateBits_setGate, setRate_setGate]

theorem csWrite_setGate (g : Gate) (s : State) : csWrite (setGate g s) = setGate g (csWrite s) := by
  simp only [csWrite, setGate_latches, write_setGate]

/-- A STARTUP whose first call fails carries the gate along; any other forgets it (R153). -/
theorem startup_setGate (g : Gate) (s : State) :
    startupFrom 1 (setGate g s) = setGate g (startupFrom 1 s) ∨ startupFrom 1 (setGate g s) = startupFrom 1 s := by
  have hanswer : (setGate g s).answer = s.answer := answer_setGate g s
  rcases forms_startup s with ⟨h0, h1, h2, h3⟩ | ⟨e, h0⟩ | ⟨e, h0, h1⟩ | ⟨e, h0, h1, h2⟩ | ⟨e, h0, h1, h2, h3⟩
  · right
    rw [startup_ok h0 h1 h2 h3, startup_ok (hanswer ▸ h0) (hanswer ▸ h1) (hanswer ▸ h2) (hanswer ▸ h3),
      prepareEnable_setGate, defensiveHold_setGate]
  · left
    rw [startup_err_fast h0, startup_err_fast (hanswer ▸ h0), prepareEnable_setGate]
    rfl
  · right
    rw [startup_err_parent h0 h1, startup_err_parent (hanswer ▸ h0) (hanswer ▸ h1), prepareEnable_setGate,
      defensiveHold_setGate]
  · right
    rw [startup_err_iface h0 h1 h2, startup_err_iface (hanswer ▸ h0) (hanswer ▸ h1) (hanswer ▸ h2),
      prepareEnable_setGate, defensiveHold_setGate]
  · right
    rw [startup_err_master h0 h1 h2 h3,
      startup_err_master (hanswer ▸ h0) (hanswer ▸ h1) (hanswer ▸ h2) (hanswer ▸ h3), prepareEnable_setGate,
      defensiveHold_setGate]

theorem latch_setGate (p : Latches) (g : Gate) (s : State) : latch p (setGate g s) = setGate g (latch p s) := rfl

/-- A CONFIGURE carries the gate along (R155). -/
theorem configure_setGate (p : Latches) (g : Gate) (s : State) :
    configureFrom 0 (latch p (setGate g s)) = setGate g (configureFrom 0 (latch p s)) := by
  have hanswer : (setGate g s).answer = s.answer := answer_setGate g s
  rcases forms_configure p s with h | ⟨h, e, h0⟩ | ⟨h, h0, h1⟩ | ⟨h, h0, h1, h2⟩ | ⟨h, h0, h1, v, h2⟩
  · rw [configure_refused h, configure_refused h]
    rfl
  · rw [configure_err_rate h h0, configure_err_rate h (hanswer ▸ h0), stage1_setGate]
    rfl
  · rw [configure_err_cs h h0 h1, configure_err_cs h (hanswer ▸ h0) h1, stage1_setGate]
    rfl
  · rw [configure_err_width h h0 h1 h2, configure_err_width (s := setGate g s) h (hanswer ▸ h0) h1 h2, stage1_setGate,
      latch_setGate, csWrite_setGate]
    rfl
  · rw [configure_ok h h0 h1 h2, configure_ok (s := setGate g s) h (hanswer ▸ h0) h1 h2, stage1_setGate,
      latch_setGate, csWrite_setGate, setGate_params, updateBits_setGate]
    rfl

/-- From two states that differ in the gate every command ends in two states that differ in the gate at most. -/
theorem exec_setGate (i : Instr) (g : Gate) (s : State) :
    ∃ t g', exec i s = .next t ∧ exec i (setGate g s) = .next (setGate g' t) := by
  cases i
  case startup =>
    rcases startup_setGate g s with h | h
    · exact ⟨_, g, exec_startup s, by rw [exec_startup, h]⟩
    · exact ⟨_, (startupFrom 1 s).gate, exec_startup s, by rw [exec_startup, h]; rfl⟩
  case configure => exact ⟨_, g, exec_configure .., by rw [exec_configure, configure_setGate]⟩
  case shutdown => exact ⟨_, g, exec_shutdown s, by rw [exec_shutdown, release_setGate]; rfl⟩
  case triggerInvalid code => exact ⟨_, g, exec_triggerInvalid code s, rfl⟩
  case triggerStart | triggerResume | triggerPauseRelease =>
    exact ⟨_, .flowing, exec_startClass (by decide) s, by rw [exec_startClass (by decide), gateStart_setGate]; rfl⟩
  case triggerStop | triggerSuspend | triggerPausePush =>
    exact ⟨_, .held, exec_stopClass (by decide) s, by rw [exec_stopClass (by decide), gateStop_setGate]; rfl⟩

/-- Settles O40: the end states differ in the gate at most. -/
theorem noCommandReadsTheGate : Obligations.NoCommandReadsTheGate := by
  intro i s g
  obtain ⟨t, g', h, h'⟩ := exec_setGate i g s
  exact ⟨t, setGate g' t, h, h', rfl⟩

end Sys2Proof.Machine
end

section
/-! The fault mark: which commands set it (R60, R211) and the host that never meets it (R210); the clock errors that are
reported (R171, R178); and the latches (R23). -/

namespace Sys2Proof.Machine

/-! ### Which commands set the fault mark -/

/-- Both gate sequences set the mark of the first register, if `fast` is off and no mark was set before (R60, R177). -/
theorem fault_sequence (s : State) (f g : Field) :
    (clearField g (setField f s)).fault =
      if s.clk.enFast then s.fault else some (s.fault.getD (.unclockedRegAccess f.reg)) := by
  cases hfast : s.clk.enFast <;> simp [clearField, setField, updateBits_fault, hfast]

/-- Settles O46: the first access of each command that reaches the bus. -/
theorem unclockedCommandsSetTheFault : Obligations.UnclockedCommandsSetTheFault := by
  intro s i hneeds hfast
  cases i
  case startup | shutdown | triggerInvalid => cases hneeds
  case configure =>
    have hrate : rateInRange _ = true := hneeds
    refine ⟨_, .clkctrl, exec_configure .., ?_, by simp, fun _ => rfl⟩
    rw [configure_fault_of_accepted hrate, hfast]
    rfl
  case triggerStart | triggerResume | triggerPauseRelease =>
    refine ⟨_, .clkctrl, exec_startClass (by decide) s, ?_, by simp, fun _ => rfl⟩
    rw [gateStart_eq, complete_fault, setGate_fault, fault_sequence, hfast]
    rfl
  case triggerStop | triggerSuspend | triggerPausePush =>
    refine ⟨_, .holdctrl, exec_stopClass (by decide) s, ?_, fun _ => rfl, by simp⟩
    rw [gateStop_eq, complete_fault, setGate_fault, fault_sequence, hfast]
    rfl

/-- Settles O47: the other commands, and every command while `fast` is on. -/
theorem clockedCommandsSetNoFault : Obligations.ClockedCommandsSetNoFault := by
  intro s i h
  cases i
  case startup => exact ⟨_, exec_startup s, startup_fault s⟩
  case shutdown => exact ⟨_, exec_shutdown s, by simp [release]⟩
  case triggerInvalid code => exact ⟨_, exec_triggerInvalid code s, rfl⟩
  case configure rate width channels csOk cs =>
    refine ⟨_, exec_configure .., ?_⟩
    rcases h with hrate | hfast
    · have hrate : rateInRange rate = false := hrate
      rw [configure_refused hrate]
      rfl
    · exact configure_fault _ hfast
  case triggerStart | triggerResume | triggerPauseRelease =>
    have hfast : s.clk.enFast = true := h.resolve_left (by decide)
    exact ⟨_, exec_startClass (by decide) s, fault_clearField_setField hfast .divEn .holdEn⟩
  case triggerStop | triggerSuspend | triggerPausePush =>
    have hfast : s.clk.enFast = true := h.resolve_left (by decide)
    exact ⟨_, exec_stopClass (by decide) s, fault_clearField_setField hfast .holdEn .divEn⟩

/-! ### A host that keeps the order -/

/-- A STARTUP that answers `Ok` leaves `fast` on (R150). -/
theorem startup_enFast_of_ok {s : State} (h : (startupFrom 1 s).resp = .ok) : (startupFrom 1 s).clk.enFast = true := by
  rcases forms_startup s with ⟨h0, h1, h2, h3⟩ | ⟨e, h0⟩ | ⟨e, h0, h1⟩ | ⟨e, h0, h1, h2⟩ | ⟨e, h0, h1, h2, h3⟩
  · rw [startup_ok_clk h0 h1 h2 h3]
  · rw [startup_err_fast h0] at h; cases h
  · rw [startup_err_parent h0 h1] at h; cases h
  · rw [startup_err_iface h0 h1 h2] at h; cases h
  · rw [startup_err_master h0 h1 h2 h3] at h; cases h

/-- CONFIGURE and TRIGGER enable and disable no clock. -/
theorem exec_enFast {i : Instr} {s t : State} (h : exec i s = .next t) (hup : i ≠ .startup) (hdown : i ≠ .shutdown) :
    t.clk.enFast = s.clk.enFast := by
  cases i
  case startup => exact absurd rfl hup
  case shutdown => exact absurd rfl hdown
  case configure =>
    obtain ⟨-, -, -, hen, -⟩ := configureFrame _ _ _ _ _ _ _ h
    exact hen .fast
  case triggerInvalid =>
    obtain rfl := next_unique h (exec_triggerInvalid ..)
    rfl
  all_goals
    obtain ⟨-, -, -, hclk, -⟩ := triggerFrame s t _ (by decide) h
    rw [hclk]

/-- Settles O58: along the list, a host that has started has `fast` on. -/
theorem orderedHostNeverFaults : Obligations.OrderedHostNeverFaults := by
  intro commands
  induction commands with
  | nil => exact fun started s hfault _ _ => ⟨s, rfl, hfault⟩
  | cons i is ih =>
    intro started s hfault hstarted horder
    have continue_ {started' : Bool} {t : State} (hexec : exec i s = .next t) (ht : t.fault = s.fault)
        (hfast : started' = true → t.clk.enFast = true) (hrest : hostKeepsOrder started' is t) :
        ∃ u, execAll (i :: is) s = .next u ∧ u.fault = none := by
      obtain ⟨u, hu, hnone⟩ := ih started' t (ht.trans hfault) hfast hrest
      exact ⟨u, by simpa only [execAll, hexec] using hu, hnone⟩
    cases i
    case startup =>
      refine continue_ (exec_startup s) (startup_fault s) (fun h => ?_) (horder _ (exec_startup s))
      exact startup_enFast_of_ok (by simpa using h)
    case shutdown =>
      obtain ⟨t, hexec, ht⟩ := clockedCommandsSetNoFault s .shutdown (.inl rfl)
      exact continue_ hexec ht (fun h => by cases h) (horder t hexec)
    all_goals
      obtain ⟨hrunning, hnext⟩ := horder
      obtain ⟨t, hexec, ht⟩ := clockedCommandsSetNoFault s _ (.inr (hstarted hrunning))
      exact continue_ hexec ht (fun h => (exec_enFast hexec (by simp) (by simp)).trans (hstarted h)) (hnext t hexec)

/-! ### Clock errors -/

/-- A command in which a clock call failed answers a clock error (R178, R179). -/
theorem Issued.clockError_of_failed {i : Instr} {s t : State} {new : List Transaction} (h : Issued i s t new)
    (hfailed : ∃ x ∈ new, x.failed = true) : ∃ stage e, t.resp = .clockError stage e := by
  cases h
  case startupErrFast hresp | startupErrParent hresp | startupErrIface hresp | startupErrMaster hresp
      | configureErrRate hresp => exact ⟨_, _, hresp⟩
  all_goals simp [Transaction.failed] at hfailed

/-- A command that answers a clock error issued the call of that stage, which failed with that payload; or it is a
CONFIGURE refused for its rate, which keeps the answer of the command before (R171, R176). -/
theorem Issued.failed_of_clockError {i : Instr} {s t : State} {new : List Transaction} (h : Issued i s t new)
    {stage : ClkStage} {e : ErrPayload} (hresp : t.resp = .clockError stage e) :
    (∃ rate width channels csOk cs, i = .configure rate width channels csOk cs ∧ rateInRange rate = false) ∨
    (stage = .acquireFast ∧ .clkPrepareEnable .fast (.err e) ∈ new) ∨
    (stage = .setParent ∧ .clkSetParent .master .masterSelect (.err e) ∈ new) ∨
    (stage = .enableIface ∧ .clkPrepareEnable .iface (.err e) ∈ new) ∨
    (stage = .enableMaster ∧ .clkPrepareEnable .master (.err e) ∈ new) ∨
    (stage = .setRate ∧ ∃ hz, .clkSetRate .master hz (.err e) ∈ new) := by
  cases h
  case configureRefused rate width channels csOk cs hi hrate _ _ =>
    exact .inl ⟨rate, width, channels, csOk, cs, hi, hrate⟩
  case startupErrFast h | startupErrParent h | startupErrIface h | startupErrMaster h | configureErrRate h =>
    rw [h] at hresp
    cases hresp
    simp
  case startupOk h | configureErrCs h | configureErrWidth h | gateStart h | gateStop h | rejected h | shutdown h =>
    rw [h] at hresp
    cases hresp
  case configureOk h _ =>
    rw [h] at hresp
    cases hresp

/-- Settles O51, from the transactions a command can issue and the answer that goes with each list. -/
theorem clockErrorsAreReportedVerbatim : Obligations.ClockErrorsAreReportedVerbatim := by
  intro i s t new hexec hgains
  have hissued := exec_issued hexec hgains
  refine ⟨hissued.clockError_of_failed, fun stage e hresp haccepted => ?_⟩
  rcases hissued.failed_of_clockError hresp with ⟨rate, width, channels, csOk, cs, hi, hrate⟩ | h
  · rw [haccepted rate width channels csOk cs hi] at hrate
    cases hrate
  · rcases h with ⟨rfl, h⟩ | ⟨rfl, h⟩ | ⟨rfl, h⟩ | ⟨rfl, h⟩ | ⟨rfl, h⟩ <;> exact h

/-! ### The latches -/

/-- No transaction of the engine is on `masterSelect` (R100). -/
theorem Issuable.enMasterSelect {p : Params} {x : Transaction} (h : Issuable p x) (k : ClkState) :
    (x.onClk k).enMasterSelect = k.enMasterSelect := by
  cases h
  case enable c res hc => cases res <;> rcases hc with rfl | rfl | rfl <;> rfl
  case disable c hc => rcases hc with rfl | rfl | rfl <;> rfl
  case rate hz res => cases res <;> rfl
  case parent res => cases res <;> rfl
  all_goals rfl

/-- What no step writes: the parameters and the enable of `masterSelect` (R36, R100). -/
def SameConstants (s t : State) : Prop := t.params = s.params ∧ t.clk.enMasterSelect = s.clk.enMasterSelect

theorem sameConstants_kept (s : State) : KeptByTransactions (SameConstants s) :=
  keptByTransactions_of_issues (fun _ _ _ _ _ _ h => h) (fun _ _ h => h)
    (fun h hx hissuable => ⟨hx.params.trans h.1, (hx.clk ▸ hissuable.enMasterSelect _).trans h.2⟩)

/-- Settles O52: by the frame of each command, and transaction by transaction for what no step writes. -/
theorem onlyConfigureWritesTheLatches : Obligations.OnlyConfigureWritesTheLatches := by
  refine ⟨fun i s t h => ⟨?_, ?_⟩, fun s t h => ?_⟩
  · rintro rate width channels csOk cs rfl
    obtain ⟨-, -, hlatches, -⟩ := configureFrame _ _ _ _ _ _ _ h
    exact hlatches
  · intro hne
    cases i
    case startup => exact (startupFrame s t h).2.1
    case configure rate width channels csOk cs => exact absurd rfl (hne rate width channels csOk cs)
    case shutdown =>
      obtain rfl := next_unique h (exec_shutdown s)
      simp [release]
    case triggerInvalid =>
      obtain rfl := next_unique h (exec_triggerInvalid ..)
      rfl
    all_goals exact (triggerFrame s t _ (by decide) h).2.1
  · have hturn : SameConstants s (foreignActs s) := ⟨by simp, by simp⟩
    exact step_keeps_from (sameConstants_kept s).ops h hturn

end Sys2Proof.Machine
end
